-- ==== Sys2Proof/Word.lean ====
section
/-! DEFINITION. The word types of the block: widths of 00_scope.md R10. -/
namespace Sys2Proof

/-- The host data path, the operand registers and the pixel words: 32 bits (R10). -/
abbrev Word := BitVec 32

/-- A DMX byte (R10). -/
abbrev Byte := BitVec 8

/-- The frame, offline-second, idle and snapshot-sequence counters (R10). -/
abbrev Count := BitVec 16

/-- A register offset `off[14:0]` in the 32 KiB window (30_encoding.md R91, 20_memory.md R60). -/
abbrev Offset := BitVec 15

end Sys2Proof
end

