-- ==== Sys2Proof/Config.lean ====
section
/-! DEFINITION. What one build of the block fixes: the parameters of 00_scope.md R7, their legal values
(R8), and the constants of R9. -/
namespace Sys2Proof

/-- The configuration, fixed at elaboration and changed by no operation (R6, R7). -/
structure Config where
  /-- BASE: DMX base address, the byte offset of the first extracted channel. -/
  base : Nat
  /-- COUNT: channels in the window. -/
  count : Nat
  /-- NPIX: physical pixels. -/
  npix : Nat
  /-- SILENCE_TICKS: inter-frame silence threshold, in time-base ticks. -/
  silenceTicks : Nat
  /-- TIMEOUT_S: timeout budget, in second ticks. -/
  timeoutS : Nat
  /-- START_MARKER. -/
  startMarker : Word
  /-- END_MARKER. -/
  endMarker : Word
  /-- BLOCK_BASE: host address of register offset 0; the platform's, OPEN (R7, R60). Every value is legal;
  only `hostOffset` reads it. -/
  blockBase : Nat
  deriving DecidableEq, Repr

/-- The legal values of R7; outside them there is no machine (R8). -/
abbrev Config.legal (c : Config) : Prop :=
  (1 ≤ c.base ∧ c.base ≤ 512) ∧ (1 ≤ c.count ∧ c.count ≤ 512 ∧ c.base + c.count ≤ 513) ∧
  (1 ≤ c.npix ∧ c.npix ≤ 4094) ∧ (1 ≤ c.silenceTicks ∧ c.silenceTicks ≤ 65534) ∧
  (1 ≤ c.timeoutS ∧ c.timeoutS ≤ 65535)

/-- The defaults of R7, for a build of `npix` pixels at host address `blockBase` (NPIX and BLOCK_BASE have
no default). -/
def Config.standard (npix blockBase : Nat) : Config where
  base := 1
  count := 512
  npix := npix
  silenceTicks := 2000
  timeoutS := 30
  startMarker := 0x00000000#32
  endMarker := 0xFFFFFFFF#32
  blockBase := blockBase

/-- The configuration of `State.reset`. DESIGN CHOICE (log 2, unsafe): R7 leaves NPIX and
BLOCK_BASE open; four pixels, at address 0. No statement rests on either. -/
def Config.atReset : Config := Config.standard 4 0

/-- ONLINE_MIN (R9). -/
def onlineMin : Nat := 5

/-- ACC_MAX (R9). -/
def accMax : Nat := 600

end Sys2Proof
end

