-- ==== Sys2Proof/Syntax.lean ====
section
/-! DEFINITION. What the block can be told, in two layers: the raw signals that reach it (host accesses
and port events, 30_encoding.md R90, R91) and its instruction set (R97), one constructor of `Instr` per
row of spec/opcode_table.json. -/
namespace Sys2Proof

/-- The registers of the map of 10_state.md R22; `snap i` and `pixbuf i` are the window words. -/
inductive Reg where
  | status | irqFlags | irqEn | framecount | offsecs | snapseq | acclen
  | cfgBase | cfgCount | cfgNpix | cfgSilence | cfgTimeout | cfgStartMarker | cfgEndMarker
  | argBright | argRed | argGreen | argBlue | argFirst | argLast
  | cmd | encResult
  | snap (i : BitVec 10)
  | pixbuf (i : BitVec 12)
  deriving DecidableEq, Repr

/-- One thing the host asks of the block. -/
inductive HostOp where
  /-- A bus read of `width` bits (R91; every width but 32 is refused, 20_memory.md R63). -/
  | read (width : Nat) (off : Offset)
  /-- A bus write of `width` bits carrying `data` (R91). -/
  | write (width : Nat) (off : Offset) (data : Word)
  /-- The command word `v` at CMD: the assembler's `NOP`, `CLEAR` (R96), which stand for `WR CMD, v`
  (log 4). -/
  | command (v : Word)
  deriving DecidableEq, Repr

/-- A pulse on a port (R90), or a turn of an internal agent (the steps without a port, R90). -/
inductive Event where
  | rx (b : Byte)
  | tb
  | sec
  | ledFault
  | rst
  | fillStep
  | txStart
  | txBit
  | txEnd
  deriving DecidableEq, Repr

/-- What the decoder reads. -/
inductive Signal where
  | host (op : HostOp)
  | event (e : Event)
  deriving DecidableEq, Repr

/-- The six kinds of command word (R80, R81). -/
inductive Cmd where
  | nop
  | fill
  | clear
  | encode
  | reservedOp (o : BitVec 4)
  | reservedRsv (r : BitVec 28) (x : BitVec 4)
  deriving DecidableEq, Repr

/-- The operation set (R97). -/
inductive Instr where
  /-- NOP, R150. -/
  | nop
  /-- FILL, R154. -/
  | fill
  /-- CLEAR, R155. -/
  | clear
  /-- ENCODE, R141. -/
  | encodeCmd
  /-- RESERVED_OP, R153: OP in 0x4 to 0xF, RSV = 0. -/
  | reservedOp (o : BitVec 4)
  /-- RESERVED_RSV, R153: RSV = `r` ≠ 0, any OP `x`. -/
  | reservedRsv (r : BitVec 28) (x : BitVec 4)
  /-- RD_STATUS, R101. -/
  | rdStatus
  /-- RD_IRQ_FLAGS, R102. -/
  | rdIrqFlags
  /-- WR_IRQ_FLAGS, R103. -/
  | wrIrqFlags (d : Word)
  /-- RD_IRQ_EN, R104. -/
  | rdIrqEn
  /-- WR_IRQ_EN, R105. -/
  | wrIrqEn (d : Word)
  /-- RD_FRAMECOUNT, R106. -/
  | rdFramecount
  /-- RD_OFFSECS, R107. -/
  | rdOffsecs
  /-- RD_SNAPSEQ, R108. -/
  | rdSnapseq
  /-- RD_ACCLEN, R109. -/
  | rdAcclen
  /-- RD_CFG_BASE, R110. -/
  | rdCfgBase
  /-- RD_CFG_COUNT, R111. -/
  | rdCfgCount
  /-- RD_CFG_NPIX, R112. -/
  | rdCfgNpix
  /-- RD_CFG_SILENCE, R113. -/
  | rdCfgSilence
  /-- RD_CFG_TIMEOUT, R114. -/
  | rdCfgTimeout
  /-- RD_CFG_START_MARKER, R115. -/
  | rdCfgStartMarker
  /-- RD_CFG_END_MARKER, R116. -/
  | rdCfgEndMarker
  /-- RD_ARG_BRIGHT, R117. -/
  | rdArgBright
  /-- WR_ARG_BRIGHT, R118. -/
  | wrArgBright (d : Word)
  /-- RD_ARG_RED, R119. -/
  | rdArgRed
  /-- WR_ARG_RED, R120. -/
  | wrArgRed (d : Word)
  /-- RD_ARG_GREEN, R121. -/
  | rdArgGreen
  /-- WR_ARG_GREEN, R122. -/
  | wrArgGreen (d : Word)
  /-- RD_ARG_BLUE, R123. -/
  | rdArgBlue
  /-- WR_ARG_BLUE, R124. -/
  | wrArgBlue (d : Word)
  /-- RD_ARG_FIRST, R125. -/
  | rdArgFirst
  /-- WR_ARG_FIRST, R126. -/
  | wrArgFirst (d : Word)
  /-- RD_ARG_LAST, R127. -/
  | rdArgLast
  /-- WR_ARG_LAST, R128. -/
  | wrArgLast (d : Word)
  /-- WR_CMD, R129. -/
  | wrCmd (v : Word)
  /-- RD_ENC_RESULT, R130. -/
  | rdEncResult
  /-- RD_SNAP_i, R131: `i` = offset[11:2]. -/
  | rdSnap (i : BitVec 10)
  /-- RD_PIXBUF_i, R132: `i` = offset[13:2]. -/
  | rdPixbuf (i : BitVec 12)
  /-- RX_BYTE, R180. -/
  | rxByte (b : Byte)
  /-- TB_TICK, R184. -/
  | tbTick
  /-- SEC_TICK, R171. -/
  | secTick
  /-- TX_FAULT, R204. -/
  | txFault
  /-- RESET, R250. -/
  | reset
  /-- FILL_STEP, R157. -/
  | fillStep
  /-- TX_START, R201. -/
  | txStart
  /-- TX_BIT, R202. -/
  | txBit
  /-- TX_END, R203. -/
  | txEnd
  deriving DecidableEq, Repr

/-- The command as an instruction of its own row. -/
def Cmd.instr : Cmd → Instr
  | .nop => .nop
  | .fill => .fill
  | .clear => .clear
  | .encode => .encodeCmd
  | .reservedOp o => .reservedOp o
  | .reservedRsv r x => .reservedRsv r x

end Sys2Proof
end

