-- ==== Sys2Proof/WellFormed.lean ====
section
/-! DEFINITION. Which terms of `Instr` an encoding stands for. -/
namespace Sys2Proof

/-- The operands an encoding admits: a RESERVED_OP has OP 0x4 to 0xF, a RESERVED_RSV has RSV ≠ 0
(30_encoding.md R81), a window index lies inside its window (10_state.md R22, 20_memory.md R62). -/
def Instr.wellFormed (cfg : Config) : Instr → Bool
  | .reservedOp o => decide (4 ≤ o.toNat)
  | .reservedRsv r _ => decide (r ≠ 0)
  | .rdSnap i => decide (i.toNat < cfg.count)
  | .rdPixbuf i => decide (i.toNat ≤ cfg.npix + 1)
  | _ => true

end Sys2Proof
end

