-- ==== Sys2Proof/Decode.lean ====
section
/-! DEFINITION. From signals to instructions and back: the register map (10_state.md R22), the access
check (40_host_interface.md R100), command words (30_encoding.md R80, R81), port events (R90). -/
namespace Sys2Proof

/-- Which check of R100 an access fails first. The block answers the same BusError whatever the cause. -/
inductive BusErrorCause where
  /-- A width other than 32 bits (R63). -/
  | width
  /-- `off[1:0]` is not 0 (R64). -/
  | misaligned
  /-- An offset outside the map (R60, R62). -/
  | reservedOffset
  /-- A direction the register does not have (R22). -/
  | direction
  deriving DecidableEq, Repr

/-- A signal is an instruction, or a host access refused by name. -/
inductive Decoded where
  | instr (i : Instr)
  | busError (c : BusErrorCause)
  deriving DecidableEq, Repr

/-- The map of R22 below the windows: offset and register. -/
def regTable : List (Nat × Reg) := [
  (0x000, .status), (0x004, .irqFlags), (0x008, .irqEn), (0x00C, .framecount),
  (0x010, .offsecs), (0x014, .snapseq), (0x018, .acclen),
  (0x020, .cfgBase), (0x024, .cfgCount), (0x028, .cfgNpix), (0x02C, .cfgSilence),
  (0x030, .cfgTimeout), (0x034, .cfgStartMarker), (0x038, .cfgEndMarker),
  (0x040, .argBright), (0x044, .argRed), (0x048, .argGreen), (0x04C, .argBlue),
  (0x050, .argFirst), (0x054, .argLast), (0x058, .cmd), (0x05C, .encResult)]

/-- The register at an offset, if the map has one: SNAP in 0x1000 to 0x1FFF, PIXBUF from 0x4000, each
only as far as the configuration goes (R22, R62). -/
def regAt (cfg : Config) (off : Offset) : Option Reg :=
  if off.extractLsb' 12 3 = 0b001#3 then
    if (off.extractLsb' 2 10).toNat < cfg.count then some (.snap (off.extractLsb' 2 10)) else none
  else if off.extractLsb' 14 1 = 0b1#1 then
    if (off.extractLsb' 2 12).toNat ≤ cfg.npix + 1 then some (.pixbuf (off.extractLsb' 2 12)) else none
  else (regTable.find? fun row => row.1 == off.toNat).map Prod.snd

/-- The read of a register; CMD has none (R22, R35). -/
def readInstr : Reg → Option Instr
  | .status => some .rdStatus
  | .irqFlags => some .rdIrqFlags
  | .irqEn => some .rdIrqEn
  | .framecount => some .rdFramecount
  | .offsecs => some .rdOffsecs
  | .snapseq => some .rdSnapseq
  | .acclen => some .rdAcclen
  | .cfgBase => some .rdCfgBase
  | .cfgCount => some .rdCfgCount
  | .cfgNpix => some .rdCfgNpix
  | .cfgSilence => some .rdCfgSilence
  | .cfgTimeout => some .rdCfgTimeout
  | .cfgStartMarker => some .rdCfgStartMarker
  | .cfgEndMarker => some .rdCfgEndMarker
  | .argBright => some .rdArgBright
  | .argRed => some .rdArgRed
  | .argGreen => some .rdArgGreen
  | .argBlue => some .rdArgBlue
  | .argFirst => some .rdArgFirst
  | .argLast => some .rdArgLast
  | .cmd => none
  | .encResult => some .rdEncResult
  | .snap i => some (.rdSnap i)
  | .pixbuf i => some (.rdPixbuf i)

/-- The write of a register, where R22 gives it the direction W or W1C. -/
def writeInstr (d : Word) : Reg → Option Instr
  | .irqFlags => some (.wrIrqFlags d)
  | .irqEn => some (.wrIrqEn d)
  | .argBright => some (.wrArgBright d)
  | .argRed => some (.wrArgRed d)
  | .argGreen => some (.wrArgGreen d)
  | .argBlue => some (.wrArgBlue d)
  | .argFirst => some (.wrArgFirst d)
  | .argLast => some (.wrArgLast d)
  | .cmd => some (.wrCmd d)
  | _ => none

/-- `decode_cmd`, total on all 2^32 words (R81). -/
def decodeCmd (v : Word) : Cmd :=
  if v.extractLsb' 4 28 ≠ 0#28 then .reservedRsv (v.extractLsb' 4 28) (v.extractLsb' 0 4)
  else if v.extractLsb' 0 4 = 0x0#4 then .nop
  else if v.extractLsb' 0 4 = 0x1#4 then .fill
  else if v.extractLsb' 0 4 = 0x2#4 then .clear
  else if v.extractLsb' 0 4 = 0x3#4 then .encode
  else .reservedOp (v.extractLsb' 0 4)

/-- The check of R100, in its order; `pick` is the instruction of a register in the access's direction. -/
def checkAccess (cfg : Config) (width : Nat) (off : Offset) (pick : Reg → Option Instr) : Decoded :=
  if width ≠ 32 then .busError .width
  else if off.extractLsb' 0 2 ≠ 0b00#2 then .busError .misaligned
  else match regAt cfg off with
    | none => .busError .reservedOffset
    | some r =>
      match pick r with
      | none => .busError .direction
      | some i => .instr i

/-- What a host operation stands for. -/
def decodeHost (cfg : Config) : HostOp → Decoded
  | .read width off => checkAccess cfg width off readInstr
  | .write width off data => checkAccess cfg width off (writeInstr data)
  | .command v => .instr (decodeCmd v).instr

/-- What an event stands for (R90). -/
def decodeEvent : Event → Instr
  | .rx b => .rxByte b
  | .tb => .tbTick
  | .sec => .secTick
  | .ledFault => .txFault
  | .rst => .reset
  | .fillStep => .fillStep
  | .txStart => .txStart
  | .txBit => .txBit
  | .txEnd => .txEnd

/-- The decoder, total on every signal. -/
def decode (cfg : Config) : Signal → Decoded
  | .host op => decodeHost cfg op
  | .event e => .instr (decodeEvent e)

/-- The offset of a register (R22). -/
def Reg.offset : Reg → Offset
  | .status => 0x000#15
  | .irqFlags => 0x004#15
  | .irqEn => 0x008#15
  | .framecount => 0x00C#15
  | .offsecs => 0x010#15
  | .snapseq => 0x014#15
  | .acclen => 0x018#15
  | .cfgBase => 0x020#15
  | .cfgCount => 0x024#15
  | .cfgNpix => 0x028#15
  | .cfgSilence => 0x02C#15
  | .cfgTimeout => 0x030#15
  | .cfgStartMarker => 0x034#15
  | .cfgEndMarker => 0x038#15
  | .argBright => 0x040#15
  | .argRed => 0x044#15
  | .argGreen => 0x048#15
  | .argBlue => 0x04C#15
  | .argFirst => 0x050#15
  | .argLast => 0x054#15
  | .cmd => 0x058#15
  | .encResult => 0x05C#15
  | .snap i => 0b001#3 ++ i ++ 0b00#2
  | .pixbuf i => 0b1#1 ++ i ++ 0b00#2

/-- A 32-bit read of a register. -/
def readOf (r : Reg) : Signal := .host (.read 32 r.offset)

/-- A 32-bit write of a register. -/
def writeOf (r : Reg) (d : Word) : Signal := .host (.write 32 r.offset d)

/-- The encoder: the signal that carries an instruction. -/
def encode : Instr → Signal
  | .nop => .host (.command 0x00000000#32)
  | .fill => .host (.command 0x00000001#32)
  | .clear => .host (.command 0x00000002#32)
  | .encodeCmd => .host (.command 0x00000003#32)
  | .reservedOp o => .host (.command (0#28 ++ o))
  | .reservedRsv r x => .host (.command (r ++ x))
  | .rdStatus => readOf .status
  | .rdIrqFlags => readOf .irqFlags
  | .wrIrqFlags d => writeOf .irqFlags d
  | .rdIrqEn => readOf .irqEn
  | .wrIrqEn d => writeOf .irqEn d
  | .rdFramecount => readOf .framecount
  | .rdOffsecs => readOf .offsecs
  | .rdSnapseq => readOf .snapseq
  | .rdAcclen => readOf .acclen
  | .rdCfgBase => readOf .cfgBase
  | .rdCfgCount => readOf .cfgCount
  | .rdCfgNpix => readOf .cfgNpix
  | .rdCfgSilence => readOf .cfgSilence
  | .rdCfgTimeout => readOf .cfgTimeout
  | .rdCfgStartMarker => readOf .cfgStartMarker
  | .rdCfgEndMarker => readOf .cfgEndMarker
  | .rdArgBright => readOf .argBright
  | .wrArgBright d => writeOf .argBright d
  | .rdArgRed => readOf .argRed
  | .wrArgRed d => writeOf .argRed d
  | .rdArgGreen => readOf .argGreen
  | .wrArgGreen d => writeOf .argGreen d
  | .rdArgBlue => readOf .argBlue
  | .wrArgBlue d => writeOf .argBlue d
  | .rdArgFirst => readOf .argFirst
  | .wrArgFirst d => writeOf .argFirst d
  | .rdArgLast => readOf .argLast
  | .wrArgLast d => writeOf .argLast d
  | .wrCmd v => writeOf .cmd v
  | .rdEncResult => readOf .encResult
  | .rdSnap i => readOf (.snap i)
  | .rdPixbuf i => readOf (.pixbuf i)
  | .rxByte b => .event (.rx b)
  | .tbTick => .event .tb
  | .secTick => .event .sec
  | .txFault => .event .ledFault
  | .reset => .event .rst
  | .fillStep => .event .fillStep
  | .txStart => .event .txStart
  | .txBit => .event .txBit
  | .txEnd => .event .txEnd

/-- A 15-bit row of the table as a signal. The row has no direction bit, so bit 15 selects a write (of
data 0), and CMD, which has only a write, is written. A word 0x100 to 0x1FF is a received byte, the row
`1dddddddd` (no register lies at those offsets). DESIGN CHOICE (log 5). -/
def tableAccess (w : Nat) : Signal :=
  if w / 256 = 1 then .event (.rx (BitVec.ofNat 8 w))
  else if w / 32768 % 2 = 1 ∨ w = 0x058 then .host (.write 32 (BitVec.ofNat 15 w) 0#32)
  else .host (.read 32 (BitVec.ofNat 15 w))

/-- A one-bit pulse row: the four rows have the one word 1, taken as TB_TICK; 2, 4 and 8 name the
other three ports. DESIGN CHOICE (log 5). -/
def tablePulse (w : Nat) : Signal :=
  if w = 2 then .event .sec
  else if w = 4 then .event .ledFault
  else if w = 8 then .event .rst
  else .event .tb

/-- A row without an encoding: the four rows have the one empty word, taken as FILL_STEP; 1, 2 and 3
name the other three. DESIGN CHOICE (log 5). -/
def tableInternal (w : Nat) : Signal :=
  if w = 1 then .event .txStart
  else if w = 2 then .event .txBit
  else if w = 3 then .event .txEnd
  else .event .fillStep

/-- The signal a table word stands for: the rows of 32 bits are command words, those of 9 and 15 bits
(two bytes) received bytes and offsets, those of 1 bit pulses, those of none internal steps. -/
def tableSignal (nbits w : Nat) : Signal :=
  if nbits = 0 then tableInternal w
  else if nbits ≤ 8 then tablePulse w
  else if nbits ≤ 16 then tableAccess w
  else .host (.command (BitVec.ofNat 32 w))

/-- The instruction the decoder reads from a table word, on the configuration of `State.reset`. -/
def decodeTableWord (nbits w : Nat) : Option Instr :=
  match decode Config.atReset (tableSignal nbits w) with
  | .instr i => some i
  | .busError _ => none

end Sys2Proof
end

