-- ==== Sys2Proof/Machine/State.lean ====
section
/-! DEFINITION. The block's state (10_state.md), what the outside has in store for it, how a step can
stop, and reset. -/
namespace Sys2Proof.Machine

/-- The link state of 10_state.md R24; the code 0b11 is never held. -/
inductive Link where
  | offline
  | online
  | timedOut
  deriving DecidableEq, Repr

/-- The block's answer to a host access (30_encoding.md R91). -/
inductive Response where
  | data (w : Word)
  | ack
  | busError
  deriving DecidableEq, Repr

/-- What is seen on the LED line (00_scope.md R15): one `bit` per LED clock pulse, and the points where
a transmission starts and aborts. -/
inductive WireEvent where
  | start
  | bit (b : Bool)
  | abort
  deriving DecidableEq, Repr

/-- One agent's turn in a clock cycle. -/
inductive Turn where
  /-- The host: it goes on with a CMD write that waits, else, if `go`, issues its next operation. -/
  | host (go : Bool)
  /-- The step an event stands for. -/
  | event (e : Event)
  /-- LF and TX: TX_FAULT if `fault` is high and a transmission is in progress, else, if `go`, the
  enabled one of TX_START, TX_BIT and TX_END. -/
  | led (fault go : Bool)
  /-- FE: FILL_STEP if `go` and a fill is in progress. -/
  | fill (go : Bool)
  deriving DecidableEq, Repr

/-- What the ports carry in one clock cycle, and which internal agents step in it (60_exceptions.md
R241; log 12). -/
structure Cycle where
  rst : Bool
  host : Bool
  rx : Option Byte
  tb : Bool
  sec : Bool
  ledFault : Bool
  tx : Bool
  fe : Bool
  deriving DecidableEq, Repr

/-- The block, its configuration, and what surrounds it. -/
structure State where
  /-- The configuration (00_scope.md R6): written by nothing. -/
  cfg : Config
  /-- LINK (R24). -/
  link : Link
  /-- OFFSECS (R30). -/
  offsecs : Count
  /-- FRAMECOUNT (R29). -/
  framecount : Count
  /-- The accumulation buffer (R39). -/
  acc : List Byte
  /-- A byte came since the last evaluation (R40). -/
  armed : Bool
  /-- Time-base ticks since the last byte (R41). -/
  idle : Count
  /-- The channel snapshot (R37). -/
  snap : List Byte
  /-- SNAPSEQ (R31). -/
  snapseq : Count
  /-- The pixel frame buffer (R38). -/
  buf : List Word
  /-- The dirty flag (R43). -/
  dirty : Bool
  /-- A transmission is in progress (R44). -/
  txBusy : Bool
  /-- The buffer index being sent (R44). -/
  txIdx : Nat
  /-- The bit position within the word (R44). -/
  txBit : Fin 32
  /-- The word latched for sending (R44). -/
  txWord : Word
  /-- The LED clock line (R46). -/
  ledClk : Bool
  /-- The LED data line (R46). -/
  ledData : Bool
  /-- A fill is in progress (R45). -/
  feBusy : Bool
  /-- The next buffer index to write (R45). -/
  feIdx : Nat
  /-- The last index of the range (R45). -/
  feLast : Nat
  /-- The pixel word being written (R45). -/
  feWord : Word
  /-- IRQ_FLAGS (R25). -/
  irqFlags : BitVec 5
  /-- IRQ_EN (R26). -/
  irqEn : BitVec 5
  /-- ARG_BRIGHT (R34). -/
  argBright : Word
  /-- ARG_RED (R34). -/
  argRed : Word
  /-- ARG_GREEN (R34). -/
  argGreen : Word
  /-- ARG_BLUE (R34). -/
  argBlue : Word
  /-- ARG_FIRST (R34). -/
  argFirst : Word
  /-- ARG_LAST (R34). -/
  argLast : Word
  /-- ENC_RESULT (R36). -/
  encResult : Word
  /-- The CMD write the block has not answered yet (42_frame_buffer.md R152). -/
  cmdWait : Option Word
  /-- The host's answers so far, oldest first (R15; the model's own, log 7). -/
  responses : List Response
  /-- The LED line so far, oldest first (R15; the model's own, log 7). -/
  wire : List WireEvent
  /-- What the host will still ask, in its program order (20_memory.md R73; log 12). -/
  hostQueue : List HostOp
  /-- The turns left in the clock cycle under way (R241; log 12). -/
  turns : List Turn
  /-- The clock cycles to come (log 12). -/
  cycles : List Cycle
  deriving DecidableEq, Repr

/-- How the machine stops. The block itself never does (60_exceptions.md R220): both faults arise only
in states no run reaches, so both are safe (log 10). -/
inductive Fault where
  /-- Raised by FILL_STEP when its fill range is not inside the pixel indices, which
  42_frame_buffer.md R157 requires. Safe. -/
  | fillRange
  /-- Raised by RD_SNAP_i, RD_PIXBUF_i, FILL_STEP, TX_START and TX_BIT when the snapshot or the buffer
  lacks a word the configuration gives it. Safe. -/
  | absentWord
  deriving DecidableEq, Repr

/-- Why the model has no meaning. -/
inductive Refusal where
  /-- Raised by an arm of `exec` whose instruction has no meaning yet; none is left. Safe. -/
  | notModelled (mnemonic : String)
  /-- Raised by `step`: the configuration is not legal, so there is no machine (00_scope.md R8). Safe. -/
  | illegalConfig
  deriving DecidableEq, Repr

/-- The pixel word of brightness 0 and colour 0, at reset in every pixel (10_state.md R38). -/
def blackPixel : Word := 0x000000E0#32

/-- The block of configuration `cfg` right after reset (70_reset_and_hazards.md R250), with nothing in
store for it. -/
def State.resetOf (cfg : Config) : State where
  cfg := cfg
  link := .offline
  offsecs := 0
  framecount := 0
  acc := []
  armed := false
  idle := 0
  snap := List.replicate cfg.count 0
  snapseq := 0
  buf := cfg.startMarker :: (List.replicate cfg.npix blackPixel ++ [cfg.endMarker])
  dirty := false
  txBusy := false
  txIdx := 0
  txBit := 31
  txWord := 0
  ledClk := false
  ledData := false
  feBusy := false
  feIdx := 0
  feLast := 0
  feWord := 0
  irqFlags := 0
  irqEn := 0
  argBright := 0
  argRed := 0
  argGreen := 0
  argBlue := 0
  argFirst := 0
  argLast := 0
  encResult := 0
  cmdWait := none
  responses := []
  wire := []
  hostQueue := []
  turns := []
  cycles := []

/-- The block right after reset, in the configuration of log 2. -/
def State.reset : State := State.resetOf Config.atReset

end Sys2Proof.Machine
end

