-- ==== Sys2Proof/Machine/Flags.lean ====
section
/-! DEFINITION. The event flags, the interrupt output and the counters' arithmetic. -/
namespace Sys2Proof.Machine

/-- The event flags of 10_state.md R25. -/
inductive Flag where
  | chupd
  | linkchg
  | ovf
  | txerr
  | cmderr
  deriving DecidableEq, Repr

/-- The bit a flag has in IRQ_FLAGS and IRQ_EN, its code (R25, 60_exceptions.md R222). -/
def Flag.bit : Flag → Nat
  | .chupd => 0
  | .linkchg => 1
  | .ovf => 2
  | .txerr => 3
  | .cmderr => 4

/-- `set_flag(F)` (R27): taking an event, the one thing the block does for it. -/
def setFlag (f : Flag) (s : State) : State :=
  { s with irqFlags := s.irqFlags ||| (1#5 <<< f.bit) }

/-- The return from an event: a flag whose bit is 1 in `d` is cleared (R103, 60_exceptions.md R227). -/
def clearFlags (d : Word) (s : State) : State :=
  { s with irqFlags := s.irqFlags &&& ~~~(d.extractLsb' 0 5) }

/-- The `irq` output, a level (R28). -/
def State.irq (s : State) : Bool := s.irqFlags &&& s.irqEn != 0#5

/-- `sat_inc16` (00_scope.md R12). -/
def satInc16 (v : Count) : Count := BitVec.ofNat 16 (min (v.toNat + 1) 0xFFFF)

end Sys2Proof.Machine
end

