-- ==== Sys2Proof/Machine/Operands.lean ====
section
/-! DEFINITION. How operands and results are put together: clamping (30_encoding.md R83), the pixel
word (R84, R85), register words (10_state.md), host addresses (20_memory.md R60). -/
namespace Sys2Proof.Machine

/-- `clamp(v, lo, hi)` (00_scope.md R12). -/
def clamp (v lo hi : Int) : Int := min (max v lo) hi

/-- `encode_pixel` (41_bit_codec.md R140): red, blue, green, the marker bits, brightness. -/
def encodePixel (b r g bl : Int) : Word :=
  BitVec.ofInt 8 (clamp r 0 255) ++ BitVec.ofInt 8 (clamp bl 0 255) ++
    BitVec.ofInt 8 (clamp g 0 255) ++ 0b111#3 ++ BitVec.ofInt 5 (clamp b 0 31)

/-- The fields of a pixel word (R85). -/
def pixelRed (w : Word) : Byte := w.extractLsb' 24 8
def pixelBlue (w : Word) : Byte := w.extractLsb' 16 8
def pixelGreen (w : Word) : Byte := w.extractLsb' 8 8
def pixelMarker (w : Word) : BitVec 3 := w.extractLsb' 5 3
def pixelBrightness (w : Word) : BitVec 5 := w.extractLsb' 0 5

/-- The pixel word of the operand registers, read as two's complement (R82). -/
def operandPixel (s : State) : Word :=
  encodePixel s.argBright.toInt s.argRed.toInt s.argGreen.toInt s.argBlue.toInt

/-- `first'` (R83). -/
def fillFirst (s : State) : Int := max s.argFirst.toInt 1

/-- `last'` (R83). -/
def fillLast (s : State) : Int := min s.argLast.toInt s.cfg.npix

/-- The code LINK reads as (10_state.md R24). -/
def Link.code : Link → BitVec 2
  | .offline => 0b00#2
  | .online => 0b01#2
  | .timedOut => 0b10#2

/-- STATUS (R23, 40_host_interface.md R101). -/
def statusWord (s : State) : Word :=
  0#27 ++ BitVec.ofBool s.feBusy ++ BitVec.ofBool s.txBusy ++ BitVec.ofBool s.dirty ++ s.link.code

/-- The offset of a host address in the block's window [BLOCK_BASE, BLOCK_BASE + 0x8000), if it lies there
(R60). -/
def hostOffset (cfg : Config) (a : Nat) : Option Offset :=
  if cfg.blockBase ≤ a ∧ a < cfg.blockBase + 0x8000 then
    some (BitVec.ofNat 15 (a - cfg.blockBase))
  else none

end Sys2Proof.Machine
end

