-- ==== Sys2Proof/Machine/Ops.lean ====
section
/-! DEFINITION. The named operations the meanings are built from: the host bus's answers, the three
memories, the LED lines, the fill engine. -/
namespace Sys2Proof.Machine

/-- The block answers the host access under way. -/
def respond (r : Response) (s : State) : State := { s with responses := s.responses ++ [r] }

/-- BusError: an error response and no state change (60_exceptions.md R221). -/
def busError (s : State) : State := respond .busError s

/-- A host read: the answer is `w`, and nothing else happens (20_memory.md R69). -/
def answer (w : Word) (s : State) : Host.Outcome State Fault Refusal := .next (respond (.data w) s)

/-- A host write that is never refused: its effect, and an acknowledge (20_memory.md R73). -/
def acknowledge (s : State) : Host.Outcome State Fault Refusal := .next (respond .ack s)

/-- A CMD write: while a fill runs it waits, unanswered and not performed (42_frame_buffer.md R152);
else the command acts and the write is acknowledged, in one step (40_host_interface.md R129). -/
def cmdWrite (v : Word) (effect : State → State) (s : State) : Host.Outcome State Fault Refusal :=
  if s.feBusy then .next { s with cmdWait := some v } else acknowledge (effect s)

/-- The memories have the sizes the configuration gives them, and acc its bound (10_state.md R37 to
R39): the one form a memory has. -/
abbrev Memory.wf (s : State) : Prop :=
  s.acc.length ≤ accMax ∧ s.snap.length = s.cfg.count ∧ s.buf.length = s.cfg.npix + 2

/-- Word `i` of the pixel frame buffer. -/
def readBuf (i : Nat) (s : State) : Option Word := s.buf[i]?

/-- Write word `i` of the pixel frame buffer. -/
def writeBuf (i : Nat) (w : Word) (s : State) : Option State :=
  if i < s.buf.length then some { s with buf := s.buf.set i w } else none

/-- Element `i` of the channel snapshot. -/
def readSnap (i : Nat) (s : State) : Option Byte := s.snap[i]?

/-- Go on with a value a memory holds, or stop where it lacks it. -/
def orAbsent {α : Type} (o : Option α) (k : α → Host.Outcome State Fault Refusal) :
    Host.Outcome State Fault Refusal :=
  match o with
  | some a => k a
  | none => .fault .absentWord

/-- RX_BYTE's append: the byte joins acc, and the silence count starts anew (44_dmx_receiver.md R180). -/
def appendByte (b : Byte) (s : State) : State :=
  { s with acc := s.acc ++ [b], armed := true, idle := 0 }

/-- The discard of an overflowing acc; `armed` stays (R181). -/
def discardAcc (s : State) : State := setFlag .ovf { s with acc := [] }

/-- `emit`'s three phases (45_transmitter.md R205): data changes while the clock is low, -/
def driveData (x : Bool) (s : State) : State := { s with ledClk := false, ledData := x }

/-- the chain samples it at the rising edge, -/
def clockRise (s : State) : State :=
  { s with ledClk := true, wire := s.wire ++ [.bit s.ledData] }

/-- and the clock returns low. -/
def clockFall (s : State) : State := { s with ledClk := false }

/-- `emit(x)`: one bit on the wire with one clock pulse (R205, 00_scope.md R12). -/
def emit (x : Bool) (s : State) : State := clockFall (clockRise (driveData x s))

/-- The transmitter at rest: TX's counters as R203 and R204 leave them, both lines low (R205; log 8). -/
def txRest (s : State) : State :=
  { s with txBusy := false, txIdx := 0, txBit := 31, ledClk := false, ledData := false }

/-- A transmission ends before its last word: the wire's observer sees it abort (00_scope.md R15). -/
def txAbort (s : State) : State := { txRest s with wire := s.wire ++ [.abort] }

/-- The fill engine takes a range and a word (42_frame_buffer.md R154, R155). -/
def startFill (w : Word) (first last : Nat) (s : State) : State :=
  { s with feWord := w, feIdx := first, feLast := last, feBusy := true }

/-- The dirty flag rises (R158). -/
def setDirty (s : State) : State := { s with dirty := true }

end Sys2Proof.Machine
end

