-- ==== Sys2Proof/Machine/Command.lean ====
section
/-! DEFINITION. The commands of CMD: 42_frame_buffer.md §1, §2, 41_bit_codec.md R141, and WR CMD itself,
40_host_interface.md R129. Each runs in the step of its CMD write and waits while a fill runs (R152). -/
namespace Sys2Proof.Machine

/-- FILL's effect (R154, R156): the operands are latched into the fill engine; an empty range only
sets dirty. -/
def fillEffect (s : State) : State :=
  if fillLast s < fillFirst s then setDirty s
  else startFill (operandPixel s) (fillFirst s).toNat (fillLast s).toNat s

/-- CLEAR's effect (R155): black over every pixel; no operand register is read. -/
def clearEffect (s : State) : State := startFill (encodePixel 0 0 0 0) 1 s.cfg.npix s

/-- ENCODE's effect (R141). -/
def encodeEffect (s : State) : State := { s with encResult := operandPixel s }

/-- NOP, R150: it changes nothing, but it waits for a running fill. -/
def execNop (s : State) : Host.Outcome State Fault Refusal := cmdWrite 0x00000000#32 id s

/-- FILL, R154. -/
def execFill (s : State) : Host.Outcome State Fault Refusal := cmdWrite 0x00000001#32 fillEffect s

/-- CLEAR, R155. -/
def execClear (s : State) : Host.Outcome State Fault Refusal := cmdWrite 0x00000002#32 clearEffect s

/-- ENCODE, R141. -/
def execEncodeCmd (s : State) : Host.Outcome State Fault Refusal :=
  cmdWrite 0x00000003#32 encodeEffect s

/-- A reserved OP, R153: CMDERR and nothing else. -/
def execReservedOp (o : BitVec 4) (s : State) : Host.Outcome State Fault Refusal :=
  cmdWrite (0#28 ++ o) (setFlag .cmderr) s

/-- Nonzero reserved bits, R153: CMDERR and nothing else, whatever OP says. -/
def execReservedRsv (r : BitVec 28) (x : BitVec 4) (s : State) : Host.Outcome State Fault Refusal :=
  cmdWrite (r ++ x) (setFlag .cmderr) s

/-- WR CMD, R129: the command the word encodes (R81). -/
def execWrCmd (v : Word) (s : State) : Host.Outcome State Fault Refusal :=
  match decodeCmd v with
  | .nop => execNop s
  | .fill => execFill s
  | .clear => execClear s
  | .encode => execEncodeCmd s
  | .reservedOp o => execReservedOp o s
  | .reservedRsv r x => execReservedRsv r x s

end Sys2Proof.Machine
end

