-- ==== Sys2Proof/Machine/FillEngine.lean ====
section
/-! DEFINITION. The fill engine, 42_frame_buffer.md §3. -/
namespace Sys2Proof.Machine

/-- After a word is written: the last one ends the fill and sets dirty (R157, R158). -/
def fillAdvance (s : State) : State :=
  if s.feIdx = s.feLast then setDirty { s with feBusy := false }
  else { s with feIdx := s.feIdx + 1 }

/-- FILL_STEP, R157. Not enabled while no fill runs: FE takes no step (log 9). -/
def execFillStep (s : State) : Host.Outcome State Fault Refusal :=
  if s.feBusy then
    if 1 ≤ s.feIdx ∧ s.feIdx ≤ s.feLast ∧ s.feLast ≤ s.cfg.npix then
      orAbsent (writeBuf s.feIdx s.feWord s) fun t => .next (fillAdvance t)
    else .fault .fillRange
  else .next s

end Sys2Proof.Machine
end

