-- ==== Sys2Proof/Machine/HostAccess.lean ====
section
/-! DEFINITION. The host's register accesses, 40_host_interface.md: one meaning per register and
direction. An access that fails the check of R100 is no instruction; `Fetch` answers it BusError. -/
namespace Sys2Proof.Machine

/-- RD Status, R101: {0[26:0], fe_busy, tx_busy, dirty, LINK[1:0]}. -/
def execRdStatus (s : State) : Host.Outcome State Fault Refusal := answer (statusWord s) s

/-- RD IrqFlags, R102. -/
def execRdIrqFlags (s : State) : Host.Outcome State Fault Refusal := answer (s.irqFlags.zeroExtend 32) s

/-- RD IrqEn, R104. -/
def execRdIrqEn (s : State) : Host.Outcome State Fault Refusal := answer (s.irqEn.zeroExtend 32) s

/-- RD Framecount, R106. -/
def execRdFramecount (s : State) : Host.Outcome State Fault Refusal := answer (s.framecount.zeroExtend 32) s

/-- RD Offsecs, R107. -/
def execRdOffsecs (s : State) : Host.Outcome State Fault Refusal := answer (s.offsecs.zeroExtend 32) s

/-- RD Snapseq, R108. -/
def execRdSnapseq (s : State) : Host.Outcome State Fault Refusal := answer (s.snapseq.zeroExtend 32) s

/-- RD Acclen, R109. -/
def execRdAcclen (s : State) : Host.Outcome State Fault Refusal := answer (BitVec.ofNat 32 s.acc.length) s

/-- RD CfgBase, R110. -/
def execRdCfgBase (s : State) : Host.Outcome State Fault Refusal := answer (BitVec.ofNat 32 s.cfg.base) s

/-- RD CfgCount, R111. -/
def execRdCfgCount (s : State) : Host.Outcome State Fault Refusal := answer (BitVec.ofNat 32 s.cfg.count) s

/-- RD CfgNpix, R112. -/
def execRdCfgNpix (s : State) : Host.Outcome State Fault Refusal := answer (BitVec.ofNat 32 s.cfg.npix) s

/-- RD CfgSilence, R113. -/
def execRdCfgSilence (s : State) : Host.Outcome State Fault Refusal := answer (BitVec.ofNat 32 s.cfg.silenceTicks) s

/-- RD CfgTimeout, R114. -/
def execRdCfgTimeout (s : State) : Host.Outcome State Fault Refusal := answer (BitVec.ofNat 32 s.cfg.timeoutS) s

/-- RD CfgStartMarker, R115. -/
def execRdCfgStartMarker (s : State) : Host.Outcome State Fault Refusal := answer s.cfg.startMarker s

/-- RD CfgEndMarker, R116. -/
def execRdCfgEndMarker (s : State) : Host.Outcome State Fault Refusal := answer s.cfg.endMarker s

/-- RD ArgBright, R117. -/
def execRdArgBright (s : State) : Host.Outcome State Fault Refusal := answer s.argBright s

/-- RD ArgRed, R119. -/
def execRdArgRed (s : State) : Host.Outcome State Fault Refusal := answer s.argRed s

/-- RD ArgGreen, R121. -/
def execRdArgGreen (s : State) : Host.Outcome State Fault Refusal := answer s.argGreen s

/-- RD ArgBlue, R123. -/
def execRdArgBlue (s : State) : Host.Outcome State Fault Refusal := answer s.argBlue s

/-- RD ArgFirst, R125. -/
def execRdArgFirst (s : State) : Host.Outcome State Fault Refusal := answer s.argFirst s

/-- RD ArgLast, R127. -/
def execRdArgLast (s : State) : Host.Outcome State Fault Refusal := answer s.argLast s

/-- RD EncResult, R130. -/
def execRdEncResult (s : State) : Host.Outcome State Fault Refusal := answer s.encResult s

/-- RD SNAP[i], R131: the byte, zero-extended; an index outside the window is a BusError. -/
def execRdSnap (i : BitVec 10) (s : State) : Host.Outcome State Fault Refusal :=
  if i.toNat < s.cfg.count then orAbsent (readSnap i.toNat s) fun b => answer (b.zeroExtend 32) s
  else .next (busError s)

/-- RD PIXBUF[i], R132: the word; an index outside the window is a BusError. -/
def execRdPixbuf (i : BitVec 12) (s : State) : Host.Outcome State Fault Refusal :=
  if i.toNat ≤ s.cfg.npix + 1 then orAbsent (readBuf i.toNat s) fun w => answer w s
  else .next (busError s)

/-- WR IRQ_FLAGS, write one to clear, R103. -/
def execWrIrqFlags (d : Word) (s : State) : Host.Outcome State Fault Refusal := acknowledge (clearFlags d s)

/-- WR IRQ_EN, R105: bits [4:0]. -/
def execWrIrqEn (d : Word) (s : State) : Host.Outcome State Fault Refusal := acknowledge { s with irqEn := d.extractLsb' 0 5 }

/-- WR ARG_BRIGHT, R118: every bit is stored. -/
def execWrArgBright (d : Word) (s : State) : Host.Outcome State Fault Refusal :=
  acknowledge { s with argBright := d }

/-- WR ARG_RED, R120: every bit is stored. -/
def execWrArgRed (d : Word) (s : State) : Host.Outcome State Fault Refusal :=
  acknowledge { s with argRed := d }

/-- WR ARG_GREEN, R122: every bit is stored. -/
def execWrArgGreen (d : Word) (s : State) : Host.Outcome State Fault Refusal :=
  acknowledge { s with argGreen := d }

/-- WR ARG_BLUE, R124: every bit is stored. -/
def execWrArgBlue (d : Word) (s : State) : Host.Outcome State Fault Refusal :=
  acknowledge { s with argBlue := d }

/-- WR ARG_FIRST, R126: every bit is stored. -/
def execWrArgFirst (d : Word) (s : State) : Host.Outcome State Fault Refusal :=
  acknowledge { s with argFirst := d }

/-- WR ARG_LAST, R128: every bit is stored. -/
def execWrArgLast (d : Word) (s : State) : Host.Outcome State Fault Refusal :=
  acknowledge { s with argLast := d }

end Sys2Proof.Machine
end

