-- ==== Sys2Proof/Machine/LinkHealth.lean ====
section
/-! DEFINITION. The link-health state machine, 43_link_health.md. -/
namespace Sys2Proof.Machine

/-- What a second tick decides: the link, the offline seconds before they are stored, and whether a
transition happened. -/
structure LinkDecision where
  link : Link
  secs : Nat
  changed : Bool
  deriving DecidableEq, Repr

/-- Rules 1 to 3 of R171, on the state at the start of the tick (92_eei_decisions.md D10). -/
def linkRules (link : Link) (frames secs : Nat) : LinkDecision :=
  if link = .online ∧ frames < onlineMin then ⟨.offline, 0, true⟩
  else if link ≠ .online ∧ 0 < frames then ⟨.online, secs, true⟩
  else if link ≠ .online ∧ frames = 0 then ⟨link, secs + 1, false⟩
  else ⟨link, secs, false⟩

/-- Rule 4 of R171, on what rules 1 to 3 left. -/
def timeoutRule (timeoutS : Nat) (d : LinkDecision) : LinkDecision :=
  if timeoutS ≤ d.secs then ⟨.timedOut, 0, true⟩ else d

/-- The decision of one tick. -/
def linkDecision (s : State) : LinkDecision :=
  timeoutRule s.cfg.timeoutS (linkRules s.link s.framecount.toNat s.offsecs.toNat)

/-- The decision is stored, and the frame count starts anew. -/
def storeDecision (d : LinkDecision) (s : State) : State :=
  { s with link := d.link, offsecs := BitVec.ofNat 16 d.secs, framecount := 0 }

/-- SEC_TICK, R171. -/
def execSecTick (s : State) : Host.Outcome State Fault Refusal :=
  if (linkDecision s).changed then .next (setFlag .linkchg (storeDecision (linkDecision s) s))
  else .next (storeDecision (linkDecision s) s)

end Sys2Proof.Machine
end

