-- ==== Sys2Proof/Machine/Receiver.lean ====
section
/-! DEFINITION. The DMX frame receiver, 44_dmx_receiver.md. -/
namespace Sys2Proof.Machine

/-- RX_BYTE, R180, with the overflow discard of R181. -/
def execRxByte (b : Byte) (s : State) : Host.Outcome State Fault Refusal :=
  if accMax < (appendByte b s).acc.length then .next (discardAcc (appendByte b s))
  else .next (appendByte b s)

/-- Validity of the accumulated frame (R186): it covers the window and its start code is 0. -/
def frameValid (cfg : Config) (acc : List Byte) : Bool :=
  decide (cfg.base + cfg.count ≤ acc.length) && acc.head? == some 0x00#8

/-- LATCH (R187): the window becomes the snapshot, and the frame is counted. -/
def latch (s : State) : State :=
  setFlag .chupd
    { s with
      snap := (s.acc.drop s.cfg.base).take s.cfg.count
      framecount := satInc16 s.framecount
      snapseq := s.snapseq + 1 }

/-- acc is emptied by every evaluation (R185). -/
def consumeAcc (s : State) : State := { s with acc := [], armed := false }

/-- EVALUATE (R185); an invalid frame leaves no trace (R188). -/
def evaluate (s : State) : State :=
  if frameValid s.cfg s.acc then consumeAcc (latch s) else consumeAcc s

/-- TB_TICK's count (R184). -/
def countTick (s : State) : State := { s with idle := satInc16 s.idle }

/-- TB_TICK, R184: past the silence threshold (R183) an armed receiver evaluates. -/
def execTbTick (s : State) : Host.Outcome State Fault Refusal :=
  if s.armed && decide (s.cfg.silenceTicks < (countTick s).idle.toNat) then
    .next (evaluate (countTick s))
  else .next (countTick s)

end Sys2Proof.Machine
end

