-- ==== Sys2Proof/Machine/Reset.lean ====
section
/-! DEFINITION. RESET, 70_reset_and_hazards.md R250. -/
namespace Sys2Proof.Machine

/-- Every state element of the block at its reset value, in R250's order. -/
def resetBlock (s : State) : State :=
  { s with
    link := .offline, offsecs := 0, framecount := 0, snapseq := 0
    snap := List.replicate s.cfg.count 0
    acc := [], armed := false, idle := 0
    buf := s.cfg.startMarker :: (List.replicate s.cfg.npix blackPixel ++ [s.cfg.endMarker])
    dirty := false
    txBusy := false, txIdx := 0, txBit := 31, txWord := 0
    feBusy := false, feIdx := 0, feLast := 0, feWord := 0
    irqFlags := 0, irqEn := 0
    argBright := 0, argRed := 0, argGreen := 0, argBlue := 0, argFirst := 0, argLast := 0
    encResult := 0
    ledClk := false, ledData := false }

/-- RESET, R250. A transmission in progress is abandoned, which the wire's observer sees (log 7); a CMD
write that waits is still the host's (log 6). -/
def execReset (s : State) : Host.Outcome State Fault Refusal :=
  if s.txBusy then .next (resetBlock (txAbort s)) else .next (resetBlock s)

end Sys2Proof.Machine
end

