-- ==== Sys2Proof/Machine/Transmitter.lean ====
section
/-! DEFINITION. The LED transmitter, 45_transmitter.md. A step that is not enabled is not taken (log 9). -/
namespace Sys2Proof.Machine

/-- The transmission begins (R201). -/
def txBegin (s : State) : State :=
  { s with txBusy := true, txIdx := 0, txBit := 31, wire := s.wire ++ [.start] }

/-- TX_START, R201: the markers are written anew. -/
def execTxStart (s : State) : Host.Outcome State Fault Refusal :=
  if s.txBusy = false ∧ s.dirty = true then
    orAbsent (writeBuf 0 s.cfg.startMarker s) fun t =>
      orAbsent (writeBuf (s.cfg.npix + 1) s.cfg.endMarker t) fun u => .next (txBegin u)
  else .next s

/-- The word being sent: read whole from the buffer at its first bit, else as latched (R202). -/
def txCurrent (s : State) : Option Word :=
  if s.txBit = 31 then readBuf s.txIdx s else some s.txWord

/-- The next bit, or the next word (R202). -/
def txAdvance (s : State) : State :=
  if s.txBit = 0 then { s with txBit := 31, txIdx := s.txIdx + 1 }
  else { s with txBit := s.txBit - 1 }

/-- TX_BIT, R202. -/
def execTxBit (s : State) : Host.Outcome State Fault Refusal :=
  if s.txBusy = true ∧ s.txIdx ≤ s.cfg.npix + 1 then
    orAbsent (txCurrent s) fun w =>
      .next (txAdvance (emit (w.getLsbD s.txBit.val) { s with txWord := w }))
  else .next s

/-- TX_END, R203: dirty falls whatever was filled meanwhile. -/
def execTxEnd (s : State) : Host.Outcome State Fault Refusal :=
  if s.txBusy = true ∧ s.txIdx = s.cfg.npix + 2 then .next { txRest s with dirty := false }
  else .next s

/-- TX_FAULT, R204: the transmission is given up, dirty stays; without one it has no effect. -/
def execTxFault (s : State) : Host.Outcome State Fault Refusal :=
  if s.txBusy then .next (setFlag .txerr (txAbort s)) else .next s

end Sys2Proof.Machine
end

