-- ==== Sys2Proof/Machine/Dispatch.lean ====
section
/-! DEFINITION. Which meaning each instruction has: one arm per constructor of `Instr`. -/
namespace Sys2Proof.Machine

def exec (i : Instr) (s : State) : Host.Outcome State Fault Refusal :=
  match i with
  | .nop => Sys2Proof.Machine.execNop s
  | .fill => Sys2Proof.Machine.execFill s
  | .clear => Sys2Proof.Machine.execClear s
  | .encodeCmd => Sys2Proof.Machine.execEncodeCmd s
  | .reservedOp o => Sys2Proof.Machine.execReservedOp o s
  | .reservedRsv r x => Sys2Proof.Machine.execReservedRsv r x s
  | .rdStatus => Sys2Proof.Machine.execRdStatus s
  | .rdIrqFlags => Sys2Proof.Machine.execRdIrqFlags s
  | .wrIrqFlags d => Sys2Proof.Machine.execWrIrqFlags d s
  | .rdIrqEn => Sys2Proof.Machine.execRdIrqEn s
  | .wrIrqEn d => Sys2Proof.Machine.execWrIrqEn d s
  | .rdFramecount => Sys2Proof.Machine.execRdFramecount s
  | .rdOffsecs => Sys2Proof.Machine.execRdOffsecs s
  | .rdSnapseq => Sys2Proof.Machine.execRdSnapseq s
  | .rdAcclen => Sys2Proof.Machine.execRdAcclen s
  | .rdCfgBase => Sys2Proof.Machine.execRdCfgBase s
  | .rdCfgCount => Sys2Proof.Machine.execRdCfgCount s
  | .rdCfgNpix => Sys2Proof.Machine.execRdCfgNpix s
  | .rdCfgSilence => Sys2Proof.Machine.execRdCfgSilence s
  | .rdCfgTimeout => Sys2Proof.Machine.execRdCfgTimeout s
  | .rdCfgStartMarker => Sys2Proof.Machine.execRdCfgStartMarker s
  | .rdCfgEndMarker => Sys2Proof.Machine.execRdCfgEndMarker s
  | .rdArgBright => Sys2Proof.Machine.execRdArgBright s
  | .wrArgBright d => Sys2Proof.Machine.execWrArgBright d s
  | .rdArgRed => Sys2Proof.Machine.execRdArgRed s
  | .wrArgRed d => Sys2Proof.Machine.execWrArgRed d s
  | .rdArgGreen => Sys2Proof.Machine.execRdArgGreen s
  | .wrArgGreen d => Sys2Proof.Machine.execWrArgGreen d s
  | .rdArgBlue => Sys2Proof.Machine.execRdArgBlue s
  | .wrArgBlue d => Sys2Proof.Machine.execWrArgBlue d s
  | .rdArgFirst => Sys2Proof.Machine.execRdArgFirst s
  | .wrArgFirst d => Sys2Proof.Machine.execWrArgFirst d s
  | .rdArgLast => Sys2Proof.Machine.execRdArgLast s
  | .wrArgLast d => Sys2Proof.Machine.execWrArgLast d s
  | .wrCmd v => Sys2Proof.Machine.execWrCmd v s
  | .rdEncResult => Sys2Proof.Machine.execRdEncResult s
  | .rdSnap k => Sys2Proof.Machine.execRdSnap k s
  | .rdPixbuf k => Sys2Proof.Machine.execRdPixbuf k s
  | .rxByte b => Sys2Proof.Machine.execRxByte b s
  | .tbTick => Sys2Proof.Machine.execTbTick s
  | .secTick => Sys2Proof.Machine.execSecTick s
  | .txFault => Sys2Proof.Machine.execTxFault s
  | .reset => Sys2Proof.Machine.execReset s
  | .fillStep => Sys2Proof.Machine.execFillStep s
  | .txStart => Sys2Proof.Machine.execTxStart s
  | .txBit => Sys2Proof.Machine.execTxBit s
  | .txEnd => Sys2Proof.Machine.execTxEnd s

end Sys2Proof.Machine
end

