-- ==== Sys2Proof/Machine/Fetch.lean ====
section
/-! DEFINITION. Which instruction runs next. The block fetches no code (10_state.md R21): what a step
runs is the turn at the head of the clock cycle, in the order of 60_exceptions.md R241. -/
namespace Sys2Proof.Machine

/-- The turns of one clock cycle (R241): RESET alone, or host, RX, TB, SEC, LF or TX, FE. -/
def Cycle.turns (c : Cycle) : List Turn :=
  if c.rst then [.event .rst]
  else [.host c.host] ++ (c.rx.map fun b => Turn.event (.rx b)).toList ++
    (if c.tb then [.event .tb] else []) ++ (if c.sec then [.event .sec] else []) ++
    [.led c.ledFault c.tx, .fill c.fe]

/-- The cycle the model runs when none is listed: no port is active, the host goes on with its
operations, TX and FE each take their enabled step. DESIGN CHOICE (log 12). -/
def Cycle.quiet : Cycle where
  rst := false
  host := true
  rx := none
  tb := false
  sec := false
  ledFault := false
  tx := true
  fe := true

/-- The clock edge between two cycles: the next cycle's ports are sampled. -/
def clockEdge (s : State) : State :=
  match s.cycles with
  | [] => { s with turns := Cycle.quiet.turns }
  | c :: cs => { s with turns := c.turns, cycles := cs }

/-- The enabled step of TX, if any; the guards exclude each other (45_transmitter.md R201 to R203). -/
def txEnabled (s : State) : Option Instr :=
  if s.txBusy then
    if s.txIdx ≤ s.cfg.npix + 1 then some .txBit
    else if s.txIdx = s.cfg.npix + 2 then some .txEnd
    else none
  else if s.dirty then some .txStart
  else none

/-- What a turn amounts to: an instruction, an access answered BusError, or nothing; each with the
state it acts on. -/
inductive Fetched where
  | run (i : Instr) (s : State)
  | refuse (s : State)
  | pass (s : State)
  deriving DecidableEq, Repr

/-- The host's next operation, decoded. -/
def fetchOp (op : HostOp) (s : State) : Fetched :=
  match decode s.cfg (.host op) with
  | .instr i => .run i s
  | .busError _ => .refuse s

/-- An optional instruction, run or passed over. -/
def runOrPass (i : Option Instr) (s : State) : Fetched :=
  match i with
  | some i => .run i s
  | none => .pass s

/-- The host's turn (42_frame_buffer.md R152, 20_memory.md R73): a CMD write that waits is performed
once no fill runs; until then the host issues nothing else. -/
def fetchHost (go : Bool) (s : State) : Fetched :=
  match s.cmdWait with
  | some v => if s.feBusy then .pass s else .run (.wrCmd v) { s with cmdWait := none }
  | none =>
    if go then
      match s.hostQueue with
      | op :: ops => fetchOp op { s with hostQueue := ops }
      | [] => .pass s
    else .pass s

/-- The instruction of a turn, on the state the turn has been taken from. -/
def fetch (t : Turn) (s : State) : Fetched :=
  match t with
  | .host go => fetchHost go s
  | .event e => .run (decodeEvent e) s
  | .led fault go =>
    if fault && s.txBusy then .run .txFault s
    else if go then runOrPass (txEnabled s) s
    else .pass s
  | .fill go => if go && s.feBusy then .run .fillStep s else .pass s

/-- `s` with a signal placed so that the very next step runs it: a host operation goes to the head of
the host's queue with a turn for the host (and no other CMD write waits), an event gets a turn of its
own (log 1). -/
def State.withSignal (s : State) : Signal → State
  | .host op =>
    { s with cmdWait := none, hostQueue := op :: s.hostQueue, turns := .host true :: s.turns }
  | .event e => { s with turns := .event e :: s.turns }

end Sys2Proof.Machine
end

