-- ==== Sys2Proof/Machine/Run.lean ====
section
/-! DEFINITION. Running what was fetched. -/
namespace Sys2Proof.Machine

/-- What was fetched happens. -/
def runFetched : Fetched → Host.Outcome State Fault Refusal
  | .run i s => exec i s
  | .refuse s => .next (busError s)
  | .pass s => .next s

/-- One agent's turn, taken from the head of the clock cycle. -/
def runTurn (t : Turn) (s : State) : Host.Outcome State Fault Refusal := runFetched (fetch t s)

end Sys2Proof.Machine
end

