-- ==== Sys2Proof/Machine/Step.lean ====
section
/-! DEFINITION. One step of the machine: the clock edge, or the next turn of the clock cycle. -/
namespace Sys2Proof.Machine

/-- One step: one agent's turn (00_scope.md R13), or the clock edge when the cycle has none left. An
illegal configuration has no machine (R8). -/
def step (s : State) : Host.Outcome State Fault Refusal :=
  if s.cfg.legal then
    match s.turns with
    | [] => .next (clockEdge s)
    | t :: ts => runTurn t { s with turns := ts }
  else .refused .illegalConfig

/-- `s` with a word of the opcode table placed where the next step takes its instruction (log 1, log 5). -/
def State.withFetchWord (s : State) (nbits w : Nat) : State := s.withSignal (tableSignal nbits w)

end Sys2Proof.Machine
end

