-- ==== Sys2Proof/Safety.lean ====
section
/-! DEFINITION. The terms claims use: the invariant every run keeps, running several instructions, and
the parts of the state a claim may leave unnamed. -/
namespace Sys2Proof.Machine

/-- A pixel word has its marker bits (42_frame_buffer.md R159, 41_bit_codec.md R140). -/
abbrev isPixelWord (w : Word) : Prop := pixelMarker w = 0b111#3

/-- The pixels of the buffer, `buf[1..NPIX]` (30_encoding.md R86). -/
def pixels (s : State) : List Word := (s.buf.drop 1).take s.cfg.npix

/-- What holds in every state a run reaches. -/
structure Inv (s : State) : Prop where
  /-- The configuration is legal (00_scope.md R8). -/
  legal : s.cfg.legal
  /-- The memories have their sizes (10_state.md R37 to R39). -/
  memory : Memory.wf s
  /-- The markers stand at both ends of the buffer (R38). -/
  startMarker : s.buf[0]? = some s.cfg.startMarker
  endMarker : s.buf[s.cfg.npix + 1]? = some s.cfg.endMarker
  /-- Every pixel is a pixel word (R159). -/
  pixels : ∀ w ∈ pixels s, isPixelWord w
  /-- OFFSECS stays below the budget (R30). -/
  offsecs : s.offsecs.toNat < s.cfg.timeoutS
  /-- Bytes are waiting only since the last evaluation (R40). -/
  armed : s.acc ≠ [] → s.armed = true
  /-- A fill's range lies inside the pixels, its word is a pixel word (R157, R159). -/
  fill : s.feBusy = true →
    1 ≤ s.feIdx ∧ s.feIdx ≤ s.feLast ∧ s.feLast ≤ s.cfg.npix ∧ isPixelWord s.feWord
  /-- A transmission runs only while dirty, inside the buffer (45_transmitter.md R200 to R203). -/
  sending : s.txBusy = true →
    s.dirty = true ∧ s.txIdx ≤ s.cfg.npix + 2 ∧ (s.txIdx = s.cfg.npix + 2 → s.txBit = 31)
  /-- Between transmissions TX is at its start and the data line is low (R44, R46). -/
  atRest : s.txBusy = false → s.txIdx = 0 ∧ s.txBit = 31 ∧ s.ledData = false
  /-- After every step the LED clock is low (R205). -/
  clock : s.ledClk = false

/-- The offsets the map of 10_state.md R22 gives a read, aligned as it lists them. -/
abbrev readable (cfg : Config) (off : Offset) : Prop :=
  off.toNat ∈ [0x000, 0x004, 0x008, 0x00C, 0x010, 0x014, 0x018, 0x020, 0x024, 0x028, 0x02C, 0x030,
      0x034, 0x038, 0x040, 0x044, 0x048, 0x04C, 0x050, 0x054, 0x05C] ∨
    (∃ i, i < cfg.count ∧ off.toNat = 0x1000 + 4 * i) ∨
    (∃ i, i ≤ cfg.npix + 1 ∧ off.toNat = 0x4000 + 4 * i)

/-- The offsets it gives a write. -/
abbrev writable (off : Offset) : Prop :=
  off.toNat ∈ [0x004, 0x008, 0x040, 0x044, 0x048, 0x04C, 0x050, 0x054, 0x058]

/-- `is` run one after another, as far as the first stop. -/
def execAll : List Instr → State → Host.Outcome State Fault Refusal
  | [], s => .next s
  | i :: is, s =>
    match exec i s with
    | .next t => execAll is t
    | .fault f => .fault f
    | .refused r => .refused r

/-- The state with what surrounds the block taken from `t`: the answers and the wire so far, the CMD
write that waits, the schedule. -/
def State.surroundings (s t : State) : State :=
  { s with
    cmdWait := t.cmdWait, responses := t.responses, wire := t.wire
    hostQueue := t.hostQueue, turns := t.turns, cycles := t.cycles }

end Sys2Proof.Machine
end

