-- ==== Sys2Proof/Certificates/Slice0/Obligations.lean ====
section
/-! DEFINITION. The statements for the provers: the numbered rules of spec/, family by family. -/

open Sys2Proof Sys2Proof.Machine

/-! ## Encoding -/

/-- Every well-formed instruction is what its encoding decodes to, every operand at every value. -/
def Obligations.DecodingAnEncodedInstructionGivesItBack : Prop :=
  ∀ (cfg : Config) (i : Instr), i.wellFormed cfg = true → decode cfg (encode i) = .instr i

/-- Every signal that is an instruction is the encoding of it, and the instruction is well formed: no
two signals stand for one instruction. -/
def Obligations.EncodingADecodedSignalGivesItBack : Prop :=
  ∀ (cfg : Config) (sig : Signal) (i : Instr),
    decode cfg sig = .instr i → encode i = sig ∧ i.wellFormed cfg = true

/-- R81: exactly four words are commands; every other word is reserved, by its RSV field or its OP. -/
def Obligations.ExactlyFourWordsAreCommands : Prop :=
  ∀ v : Word,
    (decodeCmd v = .nop ↔ v = 0x00000000#32) ∧ (decodeCmd v = .fill ↔ v = 0x00000001#32) ∧
    (decodeCmd v = .clear ↔ v = 0x00000002#32) ∧ (decodeCmd v = .encode ↔ v = 0x00000003#32) ∧
    ((∃ r x, decodeCmd v = .reservedRsv r x) ↔ 16 ≤ v.toNat) ∧
    ((∃ o, decodeCmd v = .reservedOp o) ↔ 4 ≤ v.toNat ∧ v.toNat < 16)

/-- Words and offsets written out from 30_encoding.md R80 and 10_state.md R22 decode to their rows, in the
block of four pixels, wherever the platform places it. -/
def Obligations.WordsOfTheTableDecodeToTheirRows : Prop :=
  ∀ blockBase : Nat,
  let cfg := Config.standard 4 blockBase
  decode cfg (.host (.command 0x00000001#32)) = .instr .fill ∧
  decode cfg (.host (.command 0x00000011#32)) = .instr (.reservedRsv 1#28 1#4) ∧
  decode cfg (.host (.read 32 0x05C#15)) = .instr .rdEncResult ∧
  decode cfg (.host (.write 32 0x054#15 0xFFFFFFF9#32)) = .instr (.wrArgLast 0xFFFFFFF9#32) ∧
  decode cfg (.host (.read 32 0x1010#15)) = .instr (.rdSnap 4#10) ∧
  decode cfg (.host (.read 32 0x4014#15)) = .instr (.rdPixbuf 5#12) ∧
  decode cfg (.host (.read 32 0x4018#15)) = .busError .reservedOffset ∧
  decode cfg (.event (.rx 0xA5#8)) = .instr (.rxByte 0xA5#8)

/-- R22 with R63, R64, R100: a read is an instruction exactly when it is 32 bits wide and its offset is
one the map gives a read, a write exactly when it is 32 bits wide and its offset is one the map gives a
write; everything else is refused. -/
def Obligations.AnAccessIsRefusedExactlyWhenTheCheckFails : Prop :=
  ∀ (cfg : Config) (width : Nat) (off : Offset) (d : Word), cfg.legal →
    ((∃ i, decode cfg (.host (.read width off)) = .instr i) ↔ width = 32 ∧ readable cfg off) ∧
    ((∃ i, decode cfg (.host (.write width off d)) = .instr i) ↔ width = 32 ∧ writable off) ∧
    ((∃ c, decode cfg (.host (.read width off)) = .busError c) ↔ width ≠ 32 ∨ ¬ readable cfg off) ∧
    ((∃ c, decode cfg (.host (.write width off d)) = .busError c) ↔ width ≠ 32 ∨ ¬ writable off)

/-! ## What a step runs -/

/-- A turn that carries an event runs the event's instruction on the state without that turn. -/
def Obligations.AStepRunsTheEventOfItsTurn : Prop :=
  ∀ (s : State) (e : Event) (ts : List Turn) (i : Instr),
    s.cfg.legal → s.turns = .event e :: ts → decode s.cfg (.event e) = .instr i →
      step s = exec i { s with turns := ts }

/-- A host's turn, when no CMD write waits, runs the instruction of the next host operation on the state
without that turn and that operation. -/
def Obligations.AStepRunsTheHostsNextOperation : Prop :=
  ∀ (s : State) (op : HostOp) (ops : List HostOp) (ts : List Turn) (i : Instr),
    s.cfg.legal → s.cmdWait = none → s.turns = .host true :: ts → s.hostQueue = op :: ops →
      decode s.cfg (.host op) = .instr i →
      step s = exec i { s with turns := ts, hostQueue := ops }

/-- A turn of LF and TX runs TX_FAULT when the fault line is high during a transmission, else the one
transmitter step whose guard holds (R201 to R204), else nothing; a turn of FE runs FILL_STEP when its
guard holds (R157), else nothing. That LF and TX share one turn, and that TX_START is taken there also
with the fault line high while no transmission is in progress, is the model's choice (log 13, DEDUCED,
unsafe); in which cycles TX and FE step is data in the state (log 12). -/
def Obligations.AnAgentsTurnRunsItsEnabledStep : Prop :=
  ∀ (s : State) (ts : List Turn), s.cfg.legal →
    (∀ go, s.turns = .led true go :: ts → s.txBusy = true →
      step s = exec .txFault { s with turns := ts }) ∧
    (∀ fault, s.turns = .led fault true :: ts → (fault = true → s.txBusy = false) →
      (s.txBusy = false → s.dirty = true → step s = exec .txStart { s with turns := ts }) ∧
      (s.txBusy = false → s.dirty = false → step s = .next { s with turns := ts }) ∧
      (s.txBusy = true → s.txIdx ≤ s.cfg.npix + 1 → step s = exec .txBit { s with turns := ts }) ∧
      (s.txBusy = true → s.txIdx = s.cfg.npix + 2 → step s = exec .txEnd { s with turns := ts })) ∧
    (s.turns = .fill true :: ts →
      (s.feBusy = true → step s = exec .fillStep { s with turns := ts }) ∧
      (s.feBusy = false → step s = .next { s with turns := ts }))

/-- R100, R221: an access of another width than 32 bits, at an offset the map does not have (a misaligned
one among them), or in a direction the register does not allow, is answered with an error response; no
state of the block changes. -/
def Obligations.ARefusedAccessIsAnsweredAndChangesNothing : Prop :=
  ∀ (s : State) (width : Nat) (off : Offset) (d : Word) (op : HostOp) (ops : List HostOp)
    (ts : List Turn),
    s.cfg.legal → s.cmdWait = none → s.turns = .host true :: ts → s.hostQueue = op :: ops →
      (op = .read width off ∧ (width ≠ 32 ∨ ¬ readable s.cfg off)) ∨
        (op = .write width off d ∧ (width ≠ 32 ∨ ¬ writable off)) →
      step s = .next { s with turns := ts, hostQueue := ops, responses := s.responses ++ [.busError] }

/-- R152: a CMD write during a fill is held, unanswered; while it is held and the fill runs, the host's
turns do nothing; once the fill has ended, the next one performs it. -/
def Obligations.ACmdWriteWaitsForTheRunningFill : Prop :=
  ∀ (s : State) (v : Word) (ts : List Turn) (go : Bool),
    (s.feBusy = true → exec (.wrCmd v) s = .next { s with cmdWait := some v }) ∧
    (s.cfg.legal → s.cmdWait = some v → s.turns = .host go :: ts →
      (s.feBusy = true → step s = .next { s with turns := ts }) ∧
      (s.feBusy = false → step s = exec (.wrCmd v) { s with turns := ts, cmdWait := none }))

/-- R8: outside the legal values of R7, whose bounds are written out here, there is no machine. -/
def Obligations.AnIllegalConfigurationIsRefused : Prop :=
  ∀ s : State,
    (s.cfg.base = 0 ∨ s.cfg.count = 0 ∨ 512 < s.cfg.base + s.cfg.count - 1 ∨ s.cfg.npix = 0 ∨
      4094 < s.cfg.npix ∨ s.cfg.silenceTicks = 0 ∨ 65534 < s.cfg.silenceTicks ∨
      s.cfg.timeoutS = 0 ∨ 65535 < s.cfg.timeoutS ↔ step s = .refused .illegalConfig)

/-- R241: the order of the steps of one clock cycle: RESET alone; else the host, RX_BYTE, TB_TICK,
SEC_TICK, TX_FAULT or the TX step, FILL_STEP, each of the ports only where it is active. -/
def Obligations.AClockCycleTakesItsTurnsInOrder : Prop :=
  ∀ (s : State) (c : Cycle) (cs : List Cycle), s.cfg.legal → s.turns = [] → s.cycles = c :: cs →
    (c.rst = true → step s = .next { s with turns := [.event .rst], cycles := cs }) ∧
    (c.rst = false → step s = .next { s with
      cycles := cs
      turns := .host c.host ::
        ((match c.rx with | some b => [.event (.rx b)] | none => []) ++
          ((match c.tb with | true => [.event .tb] | false => []) ++
            ((match c.sec with | true => [.event .sec] | false => []) ++
              [.led c.ledFault c.tx, .fill c.fe]))) })

/-- R27: a flag set and a host write that clears it in one clock cycle leave the flag 1, shown for CHUPD:
the cycle's host writes any `d` to IRQ_FLAGS and its time-base tick latches a valid frame. -/
def Obligations.AFlagSetInTheCycleOfItsClearingStaysSet : Prop :=
  ∀ (s : State) (c : Cycle) (cs : List Cycle) (ops : List HostOp) (d : Word),
    s.cfg.legal → s.turns = [] → s.cycles = c :: cs → s.cmdWait = none →
      s.hostQueue = .write 32 0x004#15 d :: ops →
      c.rst = false → c.host = true → c.rx = none → c.tb = true →
      s.armed = true → s.cfg.silenceTicks ≤ s.idle.toNat →
      s.cfg.base + s.cfg.count ≤ s.acc.length → s.acc[0]? = some 0x00#8 →
      ∃ t, core.run 3 s = .next t ∧ t.irqFlags.getLsbD 0 = true ∧
        t.responses = s.responses ++ [.ack] ∧
        t.irqFlags.getLsbD 1 = (s.irqFlags.getLsbD 1 && !d.getLsbD 1)

/-! ## Host reads -/

/-- R101: RD STATUS, the read at offset 0x000, answers the fields of STATUS, and nothing else changes. -/
def Obligations.StatusReadsItsFields : Prop :=
  ∀ s : State, decode s.cfg (.host (.read 32 0x000#15)) = .instr .rdStatus ∧ ∃ w : Word,
    exec .rdStatus s = .next { s with responses := s.responses ++ [.data w] } ∧
    w.toNat % 4 = (match s.link with | .offline => 0 | .online => 1 | .timedOut => 2) ∧
    w.getLsbD 2 = s.dirty ∧ w.getLsbD 3 = s.txBusy ∧ w.getLsbD 4 = s.feBusy ∧ w.toNat < 32

/-- R102, R104, R106 to R108: the flag registers and the counters, each at its offset, read
zero-extended, and nothing else changes. -/
def Obligations.FlagsAndCountersReadZeroExtended : Prop :=
  ∀ s : State,
    decode s.cfg (.host (.read 32 0x004#15)) = .instr .rdIrqFlags ∧
    exec .rdIrqFlags s = .next { s with
      responses := s.responses ++ [.data (BitVec.ofNat 32 s.irqFlags.toNat)] } ∧
    decode s.cfg (.host (.read 32 0x008#15)) = .instr .rdIrqEn ∧
    exec .rdIrqEn s = .next { s with
      responses := s.responses ++ [.data (BitVec.ofNat 32 s.irqEn.toNat)] } ∧
    decode s.cfg (.host (.read 32 0x00C#15)) = .instr .rdFramecount ∧
    exec .rdFramecount s = .next { s with
      responses := s.responses ++ [.data (BitVec.ofNat 32 s.framecount.toNat)] } ∧
    decode s.cfg (.host (.read 32 0x010#15)) = .instr .rdOffsecs ∧
    exec .rdOffsecs s = .next { s with
      responses := s.responses ++ [.data (BitVec.ofNat 32 s.offsecs.toNat)] } ∧
    decode s.cfg (.host (.read 32 0x014#15)) = .instr .rdSnapseq ∧
    exec .rdSnapseq s = .next { s with
      responses := s.responses ++ [.data (BitVec.ofNat 32 s.snapseq.toNat)] }

/-- R109 to R116: ACCLEN and the configuration registers, each at its offset, read the number they stand
for, and nothing else changes. -/
def Obligations.AcclenAndConfigurationReadTheirNumbers : Prop :=
  ∀ s : State, s.cfg.legal → s.acc.length ≤ 600 → ∃ a b c n q t : Word,
    (decode s.cfg (.host (.read 32 0x018#15)) = .instr .rdAcclen ∧
      exec .rdAcclen s = .next { s with responses := s.responses ++ [.data a] } ∧
      a.toNat = s.acc.length) ∧
    (decode s.cfg (.host (.read 32 0x020#15)) = .instr .rdCfgBase ∧
      exec .rdCfgBase s = .next { s with responses := s.responses ++ [.data b] } ∧
      b.toNat = s.cfg.base) ∧
    (decode s.cfg (.host (.read 32 0x024#15)) = .instr .rdCfgCount ∧
      exec .rdCfgCount s = .next { s with responses := s.responses ++ [.data c] } ∧
      c.toNat = s.cfg.count) ∧
    (decode s.cfg (.host (.read 32 0x028#15)) = .instr .rdCfgNpix ∧
      exec .rdCfgNpix s = .next { s with responses := s.responses ++ [.data n] } ∧
      n.toNat = s.cfg.npix) ∧
    (decode s.cfg (.host (.read 32 0x02C#15)) = .instr .rdCfgSilence ∧
      exec .rdCfgSilence s = .next { s with responses := s.responses ++ [.data q] } ∧
      q.toNat = s.cfg.silenceTicks) ∧
    (decode s.cfg (.host (.read 32 0x030#15)) = .instr .rdCfgTimeout ∧
      exec .rdCfgTimeout s = .next { s with responses := s.responses ++ [.data t] } ∧
      t.toNat = s.cfg.timeoutS) ∧
    (decode s.cfg (.host (.read 32 0x034#15)) = .instr .rdCfgStartMarker ∧
      exec .rdCfgStartMarker s = .next { s with
        responses := s.responses ++ [.data s.cfg.startMarker] }) ∧
    (decode s.cfg (.host (.read 32 0x038#15)) = .instr .rdCfgEndMarker ∧
      exec .rdCfgEndMarker s = .next { s with responses := s.responses ++ [.data s.cfg.endMarker] })

/-- R117, R119, R121, R123, R125, R127, R130: the operand registers and ENC_RESULT, each at its offset,
read the word they hold, and nothing else changes. -/
def Obligations.OperandsAndResultReadAsWritten : Prop :=
  ∀ s : State,
    decode s.cfg (.host (.read 32 0x040#15)) = .instr .rdArgBright ∧
    exec .rdArgBright s = .next { s with responses := s.responses ++ [.data s.argBright] } ∧
    decode s.cfg (.host (.read 32 0x044#15)) = .instr .rdArgRed ∧
    exec .rdArgRed s = .next { s with responses := s.responses ++ [.data s.argRed] } ∧
    decode s.cfg (.host (.read 32 0x048#15)) = .instr .rdArgGreen ∧
    exec .rdArgGreen s = .next { s with responses := s.responses ++ [.data s.argGreen] } ∧
    decode s.cfg (.host (.read 32 0x04C#15)) = .instr .rdArgBlue ∧
    exec .rdArgBlue s = .next { s with responses := s.responses ++ [.data s.argBlue] } ∧
    decode s.cfg (.host (.read 32 0x050#15)) = .instr .rdArgFirst ∧
    exec .rdArgFirst s = .next { s with responses := s.responses ++ [.data s.argFirst] } ∧
    decode s.cfg (.host (.read 32 0x054#15)) = .instr .rdArgLast ∧
    exec .rdArgLast s = .next { s with responses := s.responses ++ [.data s.argLast] } ∧
    decode s.cfg (.host (.read 32 0x05C#15)) = .instr .rdEncResult ∧
    exec .rdEncResult s = .next { s with responses := s.responses ++ [.data s.encResult] }

/-- R131: RD SNAP[i], the read at 0x1000 + 4·i, answers element i of the snapshot, zero-extended, for an
index below COUNT, and nothing else changes; an index at or above COUNT is a BusError. -/
def Obligations.SnapReadsTheSnapshot : Prop :=
  ∀ (s : State) (i : BitVec 10), Memory.wf s →
    (i.toNat < s.cfg.count →
      decode s.cfg (.host (.read 32 (BitVec.ofNat 15 (0x1000 + 4 * i.toNat)))) = .instr (.rdSnap i) ∧
      ∃ b : Byte, s.snap[i.toNat]? = some b ∧
        exec (.rdSnap i) s = .next { s with
          responses := s.responses ++ [.data (BitVec.ofNat 32 b.toNat)] }) ∧
    (s.cfg.count ≤ i.toNat →
      decode s.cfg (.host (.read 32 (BitVec.ofNat 15 (0x1000 + 4 * i.toNat)))) =
        .busError .reservedOffset ∧
      exec (.rdSnap i) s = .next { s with responses := s.responses ++ [.busError] })

/-- R132: RD PIXBUF[i], the read at 0x4000 + 4·i, answers word i of the buffer for an index up to
NPIX+1, and nothing else changes; an index above is a BusError, and so is any write. -/
def Obligations.PixbufReadsTheBuffer : Prop :=
  ∀ (s : State) (i : BitVec 12) (d : Word), Memory.wf s →
    (i.toNat ≤ s.cfg.npix + 1 →
      decode s.cfg (.host (.read 32 (BitVec.ofNat 15 (0x4000 + 4 * i.toNat)))) =
        .instr (.rdPixbuf i) ∧
      decode s.cfg (.host (.write 32 (BitVec.ofNat 15 (0x4000 + 4 * i.toNat)) d)) =
        .busError .direction ∧
      ∃ w : Word, s.buf[i.toNat]? = some w ∧
        exec (.rdPixbuf i) s = .next { s with responses := s.responses ++ [.data w] }) ∧
    (s.cfg.npix + 1 < i.toNat →
      decode s.cfg (.host (.read 32 (BitVec.ofNat 15 (0x4000 + 4 * i.toNat)))) =
        .busError .reservedOffset ∧
      exec (.rdPixbuf i) s = .next { s with responses := s.responses ++ [.busError] })

/-! ## Host writes and the interrupt -/

/-- R103: WR IRQ_FLAGS, the write at offset 0x004, clears exactly the flags whose bit is 1 in the data,
and nothing else changes. -/
def Obligations.WritingOnesClearsExactlyThoseFlags : Prop :=
  ∀ (s : State) (d : Word), decode s.cfg (.host (.write 32 0x004#15 d)) = .instr (.wrIrqFlags d) ∧
    ∃ f : BitVec 5,
      exec (.wrIrqFlags d) s = .next { s with irqFlags := f, responses := s.responses ++ [.ack] } ∧
      ∀ k, k < 5 → f.getLsbD k = (s.irqFlags.getLsbD k && !d.getLsbD k)

/-- R105: WR IRQ_EN, the write at offset 0x008, stores the data's low five bits, and nothing else
changes. -/
def Obligations.WritingIrqEnStoresItsFiveBits : Prop :=
  ∀ (s : State) (d : Word), decode s.cfg (.host (.write 32 0x008#15 d)) = .instr (.wrIrqEn d) ∧
    ∃ f : BitVec 5,
      exec (.wrIrqEn d) s = .next { s with irqEn := f, responses := s.responses ++ [.ack] } ∧
      f.toNat = d.toNat % 32

/-- R118, R120, R122, R124, R126, R128: a write of an operand register, at its offset, stores the word in
it and changes nothing else; a fill in progress is unaffected. -/
def Obligations.OperandWritesStoreTheWord : Prop :=
  ∀ (s : State) (d : Word),
    decode s.cfg (.host (.write 32 0x040#15 d)) = .instr (.wrArgBright d) ∧
    exec (.wrArgBright d) s = .next { s with argBright := d, responses := s.responses ++ [.ack] } ∧
    decode s.cfg (.host (.write 32 0x044#15 d)) = .instr (.wrArgRed d) ∧
    exec (.wrArgRed d) s = .next { s with argRed := d, responses := s.responses ++ [.ack] } ∧
    decode s.cfg (.host (.write 32 0x048#15 d)) = .instr (.wrArgGreen d) ∧
    exec (.wrArgGreen d) s = .next { s with argGreen := d, responses := s.responses ++ [.ack] } ∧
    decode s.cfg (.host (.write 32 0x04C#15 d)) = .instr (.wrArgBlue d) ∧
    exec (.wrArgBlue d) s = .next { s with argBlue := d, responses := s.responses ++ [.ack] } ∧
    decode s.cfg (.host (.write 32 0x050#15 d)) = .instr (.wrArgFirst d) ∧
    exec (.wrArgFirst d) s = .next { s with argFirst := d, responses := s.responses ++ [.ack] } ∧
    decode s.cfg (.host (.write 32 0x054#15 d)) = .instr (.wrArgLast d) ∧
    exec (.wrArgLast d) s = .next { s with argLast := d, responses := s.responses ++ [.ack] }

/-- R28: `irq` is the OR, over the five flags, of flag and enable; it depends on the two registers alone;
it is 0 at reset. -/
def Obligations.IrqIsTheOrOfTheEnabledFlags : Prop :=
  (∀ s : State, s.irq = true ↔
    ∃ k, k < 5 ∧ s.irqFlags.getLsbD k = true ∧ s.irqEn.getLsbD k = true) ∧
  (∀ s t : State, t.irqFlags = s.irqFlags → t.irqEn = s.irqEn → t.irq = s.irq) ∧
  ∀ cfg : Config, (State.resetOf cfg).irq = false

/-! ## Commands -/

/-- R150: NOP, the command word 0, changes nothing and is acknowledged; during a fill it waits. -/
def Obligations.NopChangesNothing : Prop :=
  ∀ s : State, decodeCmd 0x00000000#32 = .nop ∧
    (s.feBusy = false → exec .nop s = .next { s with responses := s.responses ++ [.ack] }) ∧
    (s.feBusy = true → exec .nop s = .next { s with cmdWait := some 0x00000000#32 })

/-- R153: a reserved command word, any with RSV ≠ 0 or OP 0x4 to 0xF, sets CMDERR (bit 4) and nothing
else, and is acknowledged; during a fill its write waits. -/
def Obligations.AReservedCommandSetsCmderrAlone : Prop :=
  ∀ s : State,
    (s.feBusy = false →
      (∀ v : Word, 4 ≤ v.toNat → exec (.wrCmd v) s = .next { s with
        irqFlags := s.irqFlags ||| 0b10000#5, responses := s.responses ++ [.ack] }) ∧
      (∀ o : BitVec 4, exec (.reservedOp o) s = .next { s with
        irqFlags := s.irqFlags ||| 0b10000#5, responses := s.responses ++ [.ack] }) ∧
      ∀ (r : BitVec 28) (x : BitVec 4), exec (.reservedRsv r x) s = .next { s with
        irqFlags := s.irqFlags ||| 0b10000#5, responses := s.responses ++ [.ack] }) ∧
    (s.feBusy = true →
      (∀ o : BitVec 4, exec (.reservedOp o) s = .next { s with cmdWait := some (0#28 ++ o) }) ∧
      ∀ (r : BitVec 28) (x : BitVec 4),
        exec (.reservedRsv r x) s = .next { s with cmdWait := some (r ++ x) })

/-- R154: FILL, the command word 1. Over an empty range it only sets dirty; over another it latches the
pixel word and the clamped range into the fill engine, and changes nothing else. During a fill it
waits. -/
def Obligations.FillLatchesItsOperands : Prop :=
  ∀ s : State, decodeCmd 0x00000001#32 = .fill ∧
    (s.feBusy = false →
      (min s.argLast.toInt s.cfg.npix < max s.argFirst.toInt 1 →
        exec .fill s = .next { s with dirty := true, responses := s.responses ++ [.ack] }) ∧
      (max s.argFirst.toInt 1 ≤ min s.argLast.toInt s.cfg.npix →
        exec .fill s = .next { s with
          feWord := encodePixel s.argBright.toInt s.argRed.toInt s.argGreen.toInt s.argBlue.toInt
          feIdx := (max s.argFirst.toInt 1).toNat
          feLast := (min s.argLast.toInt s.cfg.npix).toNat
          feBusy := true
          responses := s.responses ++ [.ack] })) ∧
    (s.feBusy = true → exec .fill s = .next { s with cmdWait := some 0x00000001#32 })

/-- R156: a FILL whose range is empty, as one with `first > NPIX`, `last < 1` or `first > last` is, writes
no word, starts no fill and sets dirty. -/
def Obligations.AnEmptyFillOnlySetsDirty : Prop :=
  ∀ s : State, s.cfg.legal → s.feBusy = false →
    (min s.argLast.toInt s.cfg.npix < max s.argFirst.toInt 1 ↔
      (s.cfg.npix : Int) < s.argFirst.toInt ∨ s.argLast.toInt < 1 ∨
        s.argLast.toInt < s.argFirst.toInt) ∧
    (min s.argLast.toInt s.cfg.npix < max s.argFirst.toInt 1 →
      exec .fill s = .next { s with dirty := true, responses := s.responses ++ [.ack] })

/-- R155: CLEAR, the command word 2, starts a fill of the black word over every pixel, exactly FILL with
the operands (0, 0, 0, 0, 1, NPIX), and leaves the operand registers alone; during a fill it waits. -/
def Obligations.ClearIsFillWithBlackOverEveryPixel : Prop :=
  ∀ s : State, s.cfg.legal → decodeCmd 0x00000002#32 = .clear ∧
    encodePixel 0 0 0 0 = 0x000000E0#32 ∧
    (s.feBusy = false →
      exec .clear s = .next { s with
        feWord := 0x000000E0#32, feIdx := 1, feLast := s.cfg.npix, feBusy := true
        responses := s.responses ++ [.ack] } ∧
      exec .fill { s with
          argBright := 0, argRed := 0, argGreen := 0, argBlue := 0
          argFirst := 1, argLast := BitVec.ofNat 32 s.cfg.npix } =
        .next { s with
          feWord := 0x000000E0#32, feIdx := 1, feLast := s.cfg.npix, feBusy := true
          responses := s.responses ++ [.ack]
          argBright := 0, argRed := 0, argGreen := 0, argBlue := 0
          argFirst := 1, argLast := BitVec.ofNat 32 s.cfg.npix }) ∧
    (s.feBusy = true → exec .clear s = .next { s with cmdWait := some 0x00000002#32 })

/-- R141: ENCODE, the command word 3, writes the pixel word of the operand registers to ENC_RESULT, and
nothing else; during a fill it waits. -/
def Obligations.EncodeWritesItsResult : Prop :=
  ∀ s : State, decodeCmd 0x00000003#32 = .encode ∧
    (s.feBusy = false →
      exec .encodeCmd s = .next { s with
        encResult := encodePixel s.argBright.toInt s.argRed.toInt s.argGreen.toInt s.argBlue.toInt
        responses := s.responses ++ [.ack] }) ∧
    (s.feBusy = true → exec .encodeCmd s = .next { s with cmdWait := some 0x00000003#32 })

/-- R129: WR CMD, the write at offset 0x058, waits while a fill runs, and else performs the command its
word encodes and is acknowledged; CMD cannot be read. -/
def Obligations.WritingCmdPerformsTheCommand : Prop :=
  ∀ (s : State) (v : Word),
    decode s.cfg (.host (.write 32 0x058#15 v)) = .instr (.wrCmd v) ∧
    decode s.cfg (.host (.read 32 0x058#15)) = .busError .direction ∧
    (s.feBusy = true → exec (.wrCmd v) s = .next { s with cmdWait := some v }) ∧
    (s.feBusy = false → exec (.wrCmd v) s = exec (decodeCmd v).instr s ∧
      ∃ t, exec (.wrCmd v) s = .next t ∧ t.responses = s.responses ++ [.ack] ∧ t.cmdWait = s.cmdWait)

/-! ## The pixel word -/

/-- R84, R85, R140: the fields of an encoded pixel word are its operands, clamped. -/
def Obligations.APixelWordCarriesItsClampedOperands : Prop :=
  ∀ b r g bl : Int,
    ((encodePixel b r g bl).toNat / 2 ^ 24 : Int) = min (max r 0) 255 ∧
    ((encodePixel b r g bl).toNat / 2 ^ 16 % 256 : Int) = min (max bl 0) 255 ∧
    ((encodePixel b r g bl).toNat / 2 ^ 8 % 256 : Int) = min (max g 0) 255 ∧
    ((encodePixel b r g bl).toNat / 2 ^ 5 % 8 : Int) = 7 ∧
    ((encodePixel b r g bl).toNat % 32 : Int) = min (max b 0) 31

/-- R85, R159: the words with the marker bits are exactly the values of `encode_pixel`. -/
def Obligations.PixelWordsAreTheValuesOfEncodePixel : Prop :=
  ∀ w : Word, isPixelWord w ↔ ∃ b r g bl : Int, w = encodePixel b r g bl

/-- R85: `encode_pixel` is injective on clamped inputs. -/
def Obligations.EncodePixelIsInjectiveOnClampedInputs : Prop :=
  ∀ b r g bl b' r' g' bl' : Int,
    0 ≤ b → b ≤ 31 → 0 ≤ r → r ≤ 255 → 0 ≤ g → g ≤ 255 → 0 ≤ bl → bl ≤ 255 →
    0 ≤ b' → b' ≤ 31 → 0 ≤ r' → r' ≤ 255 → 0 ≤ g' → g' ≤ 255 → 0 ≤ bl' → bl' ≤ 255 →
    encodePixel b r g bl = encodePixel b' r' g' bl' → b = b' ∧ r = r' ∧ g = g' ∧ bl = bl'

/-! ## The fill engine -/

/-- R157, R158: FILL_STEP writes its word at its index; the last index ends the fill and sets dirty,
another one moves on. Every other word of the buffer, and all else, is as before. The last clause, that
exec of FILL_STEP leaves the state as it is while no fill runs, is the model's choice (log 9, DEDUCED). -/
def Obligations.FillStepWritesOneWord : Prop :=
  ∀ s : State,
    (s.feBusy = true → 1 ≤ s.feIdx → s.feIdx ≤ s.feLast → s.feLast ≤ s.cfg.npix → Memory.wf s →
      ∃ t, exec .fillStep s = .next t ∧
        (∀ j, t.buf[j]? = if j = s.feIdx then some s.feWord else s.buf[j]?) ∧
        (s.feIdx = s.feLast → t = { s with buf := t.buf, feBusy := false, dirty := true }) ∧
        (s.feIdx ≠ s.feLast → t = { s with buf := t.buf, feIdx := s.feIdx + 1 })) ∧
    (s.feBusy = false → exec .fillStep s = .next s)

/-- R151, R157, R158: a fill of k words takes k FILL_STEP steps; after them exactly the words of its
range hold its word, the fill has ended and dirty is set. -/
def Obligations.AFillWritesExactlyItsRangeInAsManySteps : Prop :=
  ∀ s : State, s.feBusy = true → 1 ≤ s.feIdx → s.feIdx ≤ s.feLast → s.feLast ≤ s.cfg.npix →
    Memory.wf s →
    ∃ t, execAll (List.replicate (s.feLast - s.feIdx + 1) .fillStep) s = .next t ∧
      (∀ j, t.buf[j]? = if s.feIdx ≤ j ∧ j ≤ s.feLast then some s.feWord else s.buf[j]?) ∧
      t = { s with buf := t.buf, feBusy := false, feIdx := s.feLast, dirty := true } ∧
      ∀ k, k < s.feLast - s.feIdx + 1 → ∃ u, execAll (List.replicate k .fillStep) s = .next u ∧
        u.feBusy = true ∧ u.dirty = s.dirty

/-! ## The receiver -/

/-- R180, R181: RX_BYTE appends its byte, arms the receiver and restarts the silence count; the byte that
makes 601 is discarded with the other 600 and sets OVF (bit 2), and the receiver stays armed. Nothing
else changes. -/
def Obligations.AReceivedByteIsAppendedOrOverflows : Prop :=
  ∀ (s : State) (b : Byte),
    (s.acc.length < 600 →
      exec (.rxByte b) s = .next { s with acc := s.acc ++ [b], armed := true, idle := 0 }) ∧
    (600 ≤ s.acc.length →
      exec (.rxByte b) s = .next { s with
        acc := [], armed := true, idle := 0, irqFlags := s.irqFlags ||| 0b00100#5 })

/-- R184: a tick counts silence, saturating; with an unarmed receiver or at most at the threshold it does
nothing else, past it an armed receiver evaluates: acc is emptied and the receiver disarmed, whether the
frame is valid or not (R185). -/
def Obligations.ATickCountsAndEvaluatesPastTheThreshold : Prop :=
  ∀ s : State,
    (s.armed = false ∨ min (s.idle.toNat + 1) 65535 ≤ s.cfg.silenceTicks →
      exec .tbTick s = .next { s with idle := BitVec.ofNat 16 (min (s.idle.toNat + 1) 65535) }) ∧
    (s.armed = true → s.cfg.silenceTicks < min (s.idle.toNat + 1) 65535 →
      ∃ t, exec .tbTick s = .next t ∧ t = { s with
        idle := BitVec.ofNat 16 (min (s.idle.toNat + 1) 65535), acc := [], armed := false
        snap := t.snap, framecount := t.framecount, snapseq := t.snapseq, irqFlags := t.irqFlags })

/-- R184 to R187: past the threshold an armed receiver evaluates, and a valid frame is latched: the
window becomes the snapshot, FRAMECOUNT saturates, SNAPSEQ wraps, CHUPD (bit 0) rises. -/
def Obligations.AValidFrameIsLatched : Prop :=
  ∀ s : State, s.armed = true → s.cfg.silenceTicks < min (s.idle.toNat + 1) 65535 →
    s.cfg.base + s.cfg.count ≤ s.acc.length → s.acc[0]? = some 0x00#8 →
    ∃ t, exec .tbTick s = .next t ∧
      t.snap.length = s.cfg.count ∧
      (∀ i, i < s.cfg.count → t.snap[i]? = s.acc[s.cfg.base + i]?) ∧
      t = { s with
        idle := BitVec.ofNat 16 (min (s.idle.toNat + 1) 65535)
        snap := t.snap
        framecount := BitVec.ofNat 16 (min (s.framecount.toNat + 1) 65535)
        snapseq := BitVec.ofNat 16 ((s.snapseq.toNat + 1) % 65536)
        irqFlags := s.irqFlags ||| 0b00001#5
        acc := [], armed := false }

/-- R185, R186, R188: an evaluated frame that is too short or whose start code is not 0 is dropped with
no trace. -/
def Obligations.AnInvalidFrameLeavesNoTrace : Prop :=
  ∀ s : State, s.armed = true → s.cfg.silenceTicks < min (s.idle.toNat + 1) 65535 →
    s.acc.length < s.cfg.base + s.cfg.count ∨ s.acc[0]? ≠ some 0x00#8 →
    exec .tbTick s = .next { s with
      idle := BitVec.ofNat 16 (min (s.idle.toNat + 1) 65535), acc := [], armed := false }

/-! ## Link health -/

/-- R177: the eight rows of the transition table; every row sets FRAMECOUNT to 0, those with a
transition set LINKCHG (bit 1), and nothing else changes. -/
def Obligations.ASecondTickFollowsTheTransitionTable : Prop :=
  ∀ s : State, s.cfg.legal → s.offsecs.toNat < s.cfg.timeoutS →
    (s.link = .online → 5 ≤ s.framecount.toNat →
      exec .secTick s = .next { s with framecount := 0 }) ∧
    (s.link = .online → s.framecount.toNat ≤ 4 →
      exec .secTick s = .next { s with
        link := .offline, offsecs := 0, framecount := 0, irqFlags := s.irqFlags ||| 0b00010#5 }) ∧
    (s.link ≠ .online → 0 < s.framecount.toNat →
      exec .secTick s = .next { s with
        link := .online, framecount := 0, irqFlags := s.irqFlags ||| 0b00010#5 }) ∧
    (s.link ≠ .online → s.framecount.toNat = 0 → s.offsecs.toNat + 1 < s.cfg.timeoutS →
      exec .secTick s = .next { s with
        offsecs := BitVec.ofNat 16 (s.offsecs.toNat + 1), framecount := 0 }) ∧
    (s.link ≠ .online → s.framecount.toNat = 0 → s.cfg.timeoutS ≤ s.offsecs.toNat + 1 →
      exec .secTick s = .next { s with
        link := .timedOut, offsecs := 0, framecount := 0, irqFlags := s.irqFlags ||| 0b00010#5 })

/-- R170: no step but SEC_TICK and RESET writes LINK or OFFSECS; FRAMECOUNT is written besides only by a
valid frame, which adds one, saturating. -/
def Obligations.OnlyTheSecondTickAndResetWriteTheLink : Prop :=
  ∀ (i : Instr) (s t : State), exec i s = .next t → i ≠ .secTick → i ≠ .reset →
    t.link = s.link ∧ t.offsecs = s.offsecs ∧
    (t.framecount ≠ s.framecount → i = .tbTick ∧
      s.cfg.base + s.cfg.count ≤ s.acc.length ∧ s.acc[0]? = some 0x00#8 ∧
      t.framecount.toNat = min (s.framecount.toNat + 1) 65535)

/-- R175, R176: with no frame, from Offline or TimedOut with OFFSECS = 0 the link stays as it is for
TIMEOUT_S - 1 second ticks, counting them without a transition, and is TimedOut with OFFSECS = 0 and
LINKCHG set after the TIMEOUT_S-th; from Online the first tick goes Offline and TIMEOUT_S more are
needed. -/
def Obligations.SilenceForTheWholeBudgetTimesOut : Prop :=
  ∀ s : State, s.cfg.legal → s.framecount = 0 →
    (s.link ≠ .online → s.offsecs = 0 →
      (∀ k, k < s.cfg.timeoutS → execAll (List.replicate k .secTick) s =
        .next { s with offsecs := BitVec.ofNat 16 k }) ∧
      execAll (List.replicate s.cfg.timeoutS .secTick) s = .next { s with
        link := .timedOut, irqFlags := s.irqFlags ||| 0b00010#5 }) ∧
    (s.link = .online →
      (∀ k, k < s.cfg.timeoutS → execAll (List.replicate (k + 1) .secTick) s = .next { s with
        link := .offline, offsecs := BitVec.ofNat 16 k, irqFlags := s.irqFlags ||| 0b00010#5 }) ∧
      execAll (List.replicate (s.cfg.timeoutS + 1) .secTick) s = .next { s with
        link := .timedOut, offsecs := 0, irqFlags := s.irqFlags ||| 0b00010#5 })

/-! ## The transmitter -/

/-- R201: TX_START writes both markers and begins at bit 31 of word 0; every other word of the buffer,
and all else (dirty too), is as before. The last clause, that exec of TX_START leaves the state as it is
where the step is not enabled, is the model's choice (log 9, DEDUCED). -/
def Obligations.TxStartWritesTheMarkersAndBegins : Prop :=
  ∀ s : State,
    (s.txBusy = false → s.dirty = true → Memory.wf s →
      ∃ t, exec .txStart s = .next t ∧
        (∀ j, t.buf[j]? = if j = 0 then some s.cfg.startMarker
          else if j = s.cfg.npix + 1 then some s.cfg.endMarker else s.buf[j]?) ∧
        t = { s with
          buf := t.buf, txBusy := true, txIdx := 0, txBit := 31, wire := s.wire ++ [.start] }) ∧
    (s.txBusy = true ∨ s.dirty = false → exec .txStart s = .next s)

/-- R202, R205: TX_BIT sends one bit: at bit 31 it reads its word whole from the buffer and latches it,
later it sends from the latched word; it then moves to the next bit, after bit 0 to the next word. The
data line holds the bit, the clock has pulsed and is low. -/
def Obligations.TxBitSendsTheNextBit : Prop :=
  ∀ s : State, Memory.wf s → s.txBusy = true → s.txIdx ≤ s.cfg.npix + 1 →
    ∃ w : Word,
      (s.txBit = 31 → s.buf[s.txIdx]? = some w) ∧ (s.txBit ≠ 31 → w = s.txWord) ∧
      exec .txBit s = .next { s with
        txWord := w
        txIdx := if s.txBit = 0 then s.txIdx + 1 else s.txIdx
        txBit := if s.txBit = 0 then 31 else s.txBit - 1
        ledClk := false, ledData := w.getLsbD s.txBit.val
        wire := s.wire ++ [.bit (w.getLsbD s.txBit.val)] }

/-- R203: TX_END, after the last word, clears dirty and puts TX back to its start; nothing else changes
but the LED lines, which this statement leaves open (log 8). The last clause, that exec of TX_END leaves
the state as it is where the step is not enabled, is the model's choice (log 9, DEDUCED). -/
def Obligations.TxEndClearsDirty : Prop :=
  ∀ s : State,
    (s.txBusy = true → s.txIdx = s.cfg.npix + 2 →
      ∃ t, exec .txEnd s = .next t ∧ t = { s with
        dirty := false, txBusy := false, txIdx := 0, txBit := 31
        ledClk := t.ledClk, ledData := t.ledData }) ∧
    (s.txBusy = false ∨ s.txIdx ≠ s.cfg.npix + 2 → exec .txEnd s = .next s)

/-- R204: TX_FAULT aborts the transmission in progress, sets TXERR (bit 3) and leaves dirty as it is;
nothing else changes but the LED lines, which this statement leaves open (log 8). Without a
transmission it has no effect. -/
def Obligations.TxFaultAbortsAndKeepsDirty : Prop :=
  ∀ s : State,
    (s.txBusy = true → ∃ t, exec .txFault s = .next t ∧ t = { s with
      txBusy := false, txIdx := 0, txBit := 31, irqFlags := s.irqFlags ||| 0b01000#5
      ledClk := t.ledClk, ledData := t.ledData, wire := s.wire ++ [.abort] }) ∧
    (s.txBusy = false → exec .txFault s = .next s)

/-- R46, R200: the LED lines change only in a step of the transmitter, or by RESET; a transmission starts
only while dirty, and a bit is sent only during one. Which step changes the lines at the end of a transmission, and that RESET
during one is recorded as an abort, is the model's choice (logs 8, 7, DEDUCED). -/
def Obligations.OnlyTheTransmitterDrivesTheLine : Prop :=
  ∀ (i : Instr) (s t : State), exec i s = .next t →
    (t.ledClk ≠ s.ledClk ∨ t.ledData ≠ s.ledData →
      i = .txBit ∨ i = .txEnd ∨ i = .txFault ∨ i = .reset) ∧
    (t.wire ≠ s.wire →
      (i = .txStart ∧ s.dirty = true ∧ s.txBusy = false ∧ t.wire = s.wire ++ [.start]) ∨
      (i = .txBit ∧ s.txBusy = true ∧ ∃ b, t.wire = s.wire ++ [.bit b]) ∨
      ((i = .txFault ∨ i = .reset) ∧ s.txBusy = true ∧ t.wire = s.wire ++ [.abort]))

/-- R206, with no other agent stepping (the TXRUN of R95): a complete transmission, TX_START,
32·(NPIX+2) TX_BIT and TX_END, sends the words of the
buffer in index order, each bit 31 first, ends with dirty clear and TX idle, and leaves the buffer as
it was. Both LED lines are low at the end: R46, R205 have them so between transmissions, and that TX_END
is the step that puts them there is the model's choice (log 8, DEDUCED, unsafe). -/
def Obligations.AWholeTransmissionSendsTheBuffer : Prop :=
  ∀ s : State, Inv s → s.txBusy = false → s.dirty = true →
    ∃ t, execAll (.txStart :: (List.replicate (32 * (s.cfg.npix + 2)) .txBit ++ [.txEnd])) s
        = .next t ∧
      t.wire = s.wire ++ .start ::
        (s.buf.flatMap fun w => (List.range 32).map fun k => WireEvent.bit (w.getLsbD (31 - k))) ∧
      t.dirty = false ∧ t.txBusy = false ∧ t.buf = s.buf ∧ t.ledClk = false ∧ t.ledData = false

/-! ## Reset and invariants -/

/-- R250: RESET brings every element of the block to its reset value, from every state, abandoning a fill
or a transmission; the configuration is unchanged; RESET is the only step of its clock cycle. -/
def Obligations.ResetGivesEveryElementItsValue : Prop :=
  (∀ (s : State) (c : Cycle) (cs : List Cycle), s.cfg.legal → s.turns = [] → s.cycles = c :: cs →
    c.rst = true →
      step s = .next { s with turns := [.event .rst], cycles := cs } ∧
      step { s with turns := [.event .rst], cycles := cs } = exec .reset { s with
        turns := [], cycles := cs }) ∧
  ∀ s : State, ∃ t, exec .reset s = .next t ∧ t.cfg = s.cfg ∧
    t.link = .offline ∧ t.offsecs = 0 ∧ t.framecount = 0 ∧ t.snapseq = 0 ∧
    t.snap = List.replicate s.cfg.count 0 ∧ t.acc = [] ∧ t.armed = false ∧ t.idle = 0 ∧
    t.buf = [s.cfg.startMarker] ++ List.replicate s.cfg.npix 0x000000E0#32 ++ [s.cfg.endMarker] ∧
    t.dirty = false ∧ t.txBusy = false ∧ t.txIdx = 0 ∧ t.txBit = 31 ∧ t.txWord = 0 ∧
    t.feBusy = false ∧ t.feIdx = 0 ∧ t.feLast = 0 ∧ t.feWord = 0 ∧
    t.irqFlags = 0 ∧ t.irqEn = 0 ∧ t.argBright = 0 ∧ t.argRed = 0 ∧ t.argGreen = 0 ∧
    t.argBlue = 0 ∧ t.argFirst = 0 ∧ t.argLast = 0 ∧ t.encResult = 0 ∧
    t.ledClk = false ∧ t.ledData = false

/-- The model's choice (log 6, log 7): RESET leaves what surrounds the block, a waiting CMD write among
it, and ends a transmission in progress on the observed wire. -/
def Obligations.ResetLeavesTheSurroundings : Prop :=
  ∀ s t : State, exec .reset s = .next t →
    t.cmdWait = s.cmdWait ∧ t.responses = s.responses ∧ t.hostQueue = s.hostQueue ∧
    t.turns = s.turns ∧ t.cycles = s.cycles ∧
    t.wire = (if s.txBusy = true then s.wire ++ [.abort] else s.wire)

/-- The invariant holds after reset, in every legal configuration, the model's own among them. -/
def Obligations.ResetMeetsTheInvariants : Prop :=
  (∀ cfg : Config, cfg.legal → Inv (State.resetOf cfg)) ∧ Inv State.reset

/-- The invariant is kept by every step, from every state that meets it. -/
def Obligations.EveryStepKeepsTheInvariants : Prop :=
  ∀ s t : State, Inv s → step s = .next t → Inv t

/-- R220: the block never stops: from every state that meets the invariant, whatever the outside has in
store, any number of steps ends in a next state that meets it. -/
def Obligations.TheBlockNeverHalts : Prop :=
  ∀ (n : Nat) (s : State), Inv s → ∃ t, core.run n s = .next t ∧ Inv t

/-! ## Rules about the whole machine -/

/-- R222, R225: one step sets at most one flag, and each flag rises only in a step of its own column. -/
def Obligations.AStepRaisesAtMostItsOwnFlag : Prop :=
  ∀ (i : Instr) (s t : State) (k : Nat), exec i s = .next t → k < 5 →
    s.irqFlags.getLsbD k = false → t.irqFlags.getLsbD k = true →
    (k = 0 ∧ i = .tbTick) ∨ (k = 1 ∧ i = .secTick) ∨ (k = 2 ∧ ∃ b, i = .rxByte b) ∨
    (k = 3 ∧ i = .txFault) ∨
    (k = 4 ∧ ((∃ v, i = .wrCmd v ∧ 4 ≤ v.toNat) ∨ (∃ o, i = .reservedOp o) ∨
      ∃ r x, i = .reservedRsv r x))

/-- R25, R223: a flag falls only by a host write of 1 to its bit, or by RESET. -/
def Obligations.AFlagFallsOnlyByItsWriteOrReset : Prop :=
  ∀ (i : Instr) (s t : State) (k : Nat), exec i s = .next t → k < 5 →
    s.irqFlags.getLsbD k = true → t.irqFlags.getLsbD k = false →
    (∃ d, i = .wrIrqFlags d ∧ d.getLsbD k = true) ∨ i = .reset

/-- R43: dirty falls only by TX_END of a completed transmission, or by RESET. -/
def Obligations.DirtyFallsOnlyAfterAWholeTransmission : Prop :=
  ∀ (i : Instr) (s t : State), exec i s = .next t → s.dirty = true → t.dirty = false →
    (i = .txEnd ∧ s.txBusy = true ∧ s.txIdx = s.cfg.npix + 2) ∨ i = .reset

/-- R38, R151: a word of the buffer changes only by FILL_STEP at its index, by TX_START at the two
markers, or by RESET. -/
def Obligations.OnlyFillStepsStartsAndResetWriteTheBuffer : Prop :=
  ∀ (i : Instr) (s t : State) (j : Nat), exec i s = .next t → t.buf[j]? ≠ s.buf[j]? →
    (i = .fillStep ∧ s.feBusy = true ∧ j = s.feIdx ∧ t.buf[j]? = some s.feWord) ∨
    (i = .txStart ∧ (j = 0 ∨ j = s.cfg.npix + 1)) ∨ i = .reset

/-- R37: the snapshot changes only by a valid frame, or by RESET; a valid frame is one step of the time
base that also raises CHUPD and advances SNAPSEQ. -/
def Obligations.OnlyAValidFrameOrResetWritesTheSnapshot : Prop :=
  ∀ (i : Instr) (s t : State), exec i s = .next t → t.snap ≠ s.snap →
    (i = .tbTick ∧ s.cfg.base + s.cfg.count ≤ s.acc.length ∧ s.acc[0]? = some 0x00#8 ∧
      t.irqFlags.getLsbD 0 = true ∧ t.snapseq = s.snapseq + 1) ∨ i = .reset

/-- R34, R36: an operand register changes only by its own host write or by RESET, ENC_RESULT only by
ENCODE (as such or as the word 3 written to CMD) or by RESET. -/
def Obligations.OnlyTheirOwnOperationsWriteOperandsAndResult : Prop :=
  ∀ (i : Instr) (s t : State), exec i s = .next t → i ≠ .reset →
    (t.argBright ≠ s.argBright → ∃ d, i = .wrArgBright d) ∧
    (t.argRed ≠ s.argRed → ∃ d, i = .wrArgRed d) ∧
    (t.argGreen ≠ s.argGreen → ∃ d, i = .wrArgGreen d) ∧
    (t.argBlue ≠ s.argBlue → ∃ d, i = .wrArgBlue d) ∧
    (t.argFirst ≠ s.argFirst → ∃ d, i = .wrArgFirst d) ∧
    (t.argLast ≠ s.argLast → ∃ d, i = .wrArgLast d) ∧
    (t.encResult ≠ s.encResult → i = .encodeCmd ∨ i = .wrCmd 0x00000003#32)

/-- R6: no step changes the configuration. -/
def Obligations.NoStepChangesTheConfiguration : Prop :=
  ∀ s t : State, step s = .next t → t.cfg = s.cfg
end

