-- ==== Sys2Proof/Laws/Decode.lean ====
section
/-! SUPPORT. The decoder: what a register's offset, a window's offset and a command word decode to. -/
namespace Sys2Proof

/-- A register below the windows is found at its offset, in every configuration. -/
theorem regAt_eq_regTable (cfg : Config) {off : Offset} (h : off.toNat < 0x1000) :
    regAt cfg off = (regTable.find? fun row => row.1 == off.toNat).map Prod.snd := by
  have h1 : off.extractLsb' 12 3 ≠ 0b001#3 := by
    intro hc
    have := congrArg BitVec.toNat hc
    simp [BitVec.extractLsb'_toNat, Nat.shiftRight_eq_div_pow] at this
    omega
  have h2 : off.extractLsb' 14 1 ≠ 0b1#1 := by
    intro hc
    have := congrArg BitVec.toNat hc
    simp [BitVec.extractLsb'_toNat, Nat.shiftRight_eq_div_pow] at this
    omega
  simp only [regAt, h1, h2, if_false]

/-- A 32-bit access of a register of the map, in a direction it has, is its instruction. -/
theorem checkAccess_register (cfg : Config) {off : Offset} {r : Reg} {i : Instr}
    {pick : Reg → Option Instr}
    (hlow : (decide (off.toNat < 0x1000) && decide (off.extractLsb' 0 2 = 0b00#2)) = true)
    (hrow : (regTable.find? fun row => row.1 == off.toNat).map Prod.snd = some r)
    (hpick : pick r = some i) : checkAccess cfg 32 off pick = .instr i := by
  simp only [Bool.and_eq_true, decide_eq_true_eq] at hlow
  simp [checkAccess, hlow.2, regAt_eq_regTable cfg hlow.1, hrow, hpick]

/-- A register of the map below the windows stands at its own offset. -/
abbrev standsAtOffset (r : Reg) : Prop :=
  (decide (r.offset.toNat < 0x1000) && decide (r.offset.extractLsb' 0 2 = 0b00#2)) = true ∧
    (regTable.find? fun row => row.1 == r.offset.toNat).map Prod.snd = some r

theorem decode_readOf (cfg : Config) {r : Reg} {i : Instr} (hr : standsAtOffset r)
    (hi : readInstr r = some i) : decode cfg (readOf r) = .instr i :=
  checkAccess_register cfg hr.1 hr.2 hi

theorem decode_writeOf (cfg : Config) {r : Reg} {d : Word} {i : Instr} (hr : standsAtOffset r)
    (hi : writeInstr d r = some i) : decode cfg (writeOf r d) = .instr i :=
  checkAccess_register cfg hr.1 hr.2 hi

/-- The low and the high field of a concatenation. -/
theorem extract_low {n m : Nat} (a : BitVec n) (b : BitVec m) : (a ++ b).extractLsb' 0 m = b := by
  apply BitVec.eq_of_getLsbD_eq
  intro k hk
  simp [BitVec.getLsbD_append, hk]

theorem extract_high {n m : Nat} (a : BitVec n) (b : BitVec m) : (a ++ b).extractLsb' m n = a := by
  apply BitVec.eq_of_getLsbD_eq
  intro k hk
  simp [BitVec.getLsbD_append, hk]

/-- A concatenation as a number. -/
theorem toNat_append_add {n m : Nat} (a : BitVec n) (b : BitVec m) :
    (a ++ b).toNat = a.toNat * 2 ^ m + b.toNat := by
  rw [BitVec.toNat_append, ← Nat.shiftLeft_add_eq_or_of_lt b.isLt, Nat.shiftLeft_eq]

/-- A word is its RSV and OP fields (30_encoding.md R80). -/
theorem word_eq_append (v : Word) : v = v.extractLsb' 4 28 ++ v.extractLsb' 0 4 := by
  apply BitVec.eq_of_getLsbD_eq
  intro k hk
  simp only [BitVec.getLsbD_append, BitVec.getLsbD_extractLsb']
  split
  · simp [*]
  · simp only [show k - 4 < 28 by omega, decide_true,
      Bool.true_and, show 4 + (k - 4) = k by omega]

theorem decodeCmd_reservedRsv (r : BitVec 28) (x : BitVec 4) (h : r ≠ 0) :
    decodeCmd (r ++ x) = .reservedRsv r x := by
  have hr : BitVec.extractLsb' 4 28 (r ++ x : Word) = r := extract_high r x
  have hx : BitVec.extractLsb' 0 4 (r ++ x : Word) = x := extract_low r x
  simp only [decodeCmd, hr, hx]
  exact if_pos h

theorem decodeCmd_reservedOp (o : BitVec 4) (h : 4 ≤ o.toNat) :
    decodeCmd (0#28 ++ o) = .reservedOp o := by
  have hr : BitVec.extractLsb' 4 28 (0#28 ++ o : Word) = 0#28 := extract_high 0#28 o
  have hx : BitVec.extractLsb' 0 4 (0#28 ++ o : Word) = o := extract_low 0#28 o
  have hne (n : BitVec 4) (hn : n.toNat < 4) : o ≠ n := fun e => by subst e; omega
  simp [decodeCmd, hr, hx, hne 0#4, hne 1#4, hne 2#4, hne 3#4]

theorem decode_reservedOp (cfg : Config) (o : BitVec 4) (h : 4 ≤ o.toNat) :
    decode cfg (encode (.reservedOp o)) = .instr (.reservedOp o) := by
  simp only [encode, decode, decodeHost, decodeCmd_reservedOp o h, Cmd.instr]

theorem decode_reservedRsv (cfg : Config) (r : BitVec 28) (x : BitVec 4) (h : r ≠ 0) :
    decode cfg (encode (.reservedRsv r x)) = .instr (.reservedRsv r x) := by
  simp only [encode, decode, decodeHost, decodeCmd_reservedRsv r x h, Cmd.instr]

/-- A window's offset, field by field. -/
theorem snapOffset_fields (i : BitVec 10) :
    (Reg.snap i).offset.extractLsb' 0 2 = 0b00#2 ∧ (Reg.snap i).offset.extractLsb' 12 3 = 0b001#3 ∧
      (Reg.snap i).offset.extractLsb' 2 10 = i := by
  refine ⟨extract_low (0b001#3 ++ i) 0b00#2, ?_, ?_⟩ <;> apply BitVec.eq_of_getLsbD_eq <;>
    intro k hk <;> simp only [Reg.offset, BitVec.getLsbD_append, BitVec.getLsbD_extractLsb']
  · rw [if_neg (show ¬12 + k < 2 by omega), if_neg (show ¬12 + k - 2 < 10 by omega),
      show 12 + k - 2 - 10 = k by omega]
    simp [hk]
  · rw [if_neg (show ¬2 + k < 2 by omega), if_pos (show 2 + k - 2 < 10 by omega),
      show 2 + k - 2 = k by omega]
    simp [hk]

theorem pixbufOffset_fields (i : BitVec 12) :
    (Reg.pixbuf i).offset.extractLsb' 0 2 = 0b00#2 ∧ (Reg.pixbuf i).offset.extractLsb' 14 1 = 0b1#1 ∧
      (Reg.pixbuf i).offset.extractLsb' 2 12 = i := by
  refine ⟨extract_low (0b1#1 ++ i) 0b00#2, ?_, ?_⟩ <;> apply BitVec.eq_of_getLsbD_eq <;>
    intro k hk <;> simp only [Reg.offset, BitVec.getLsbD_append, BitVec.getLsbD_extractLsb']
  · rw [if_neg (show ¬14 + k < 2 by omega), if_neg (show ¬14 + k - 2 < 12 by omega),
      show 14 + k - 2 - 12 = k by omega]
    simp [hk]
  · rw [if_neg (show ¬2 + k < 2 by omega), if_pos (show 2 + k - 2 < 12 by omega),
      show 2 + k - 2 = k by omega]
    simp [hk]

/-- PIXBUF's half of the window is not SNAP's. -/
theorem extract_snapField_ne {off : Offset} (h : off.extractLsb' 14 1 = 0b1#1) :
    off.extractLsb' 12 3 ≠ 0b001#3 := by
  intro hc
  have h1 := congrArg BitVec.toNat hc
  have h2 := congrArg BitVec.toNat h
  simp [BitVec.extractLsb'_toNat, Nat.shiftRight_eq_div_pow] at h1 h2
  omega

theorem decode_rdSnap (cfg : Config) (i : BitVec 10) (h : i.toNat < cfg.count) :
    decode cfg (encode (.rdSnap i)) = .instr (.rdSnap i) := by
  obtain ⟨h1, h2, h3⟩ := snapOffset_fields i
  simp [encode, readOf, decode, decodeHost, checkAccess, regAt, readInstr, h1, h2, h3, h]

theorem decode_rdPixbuf (cfg : Config) (i : BitVec 12) (h : i.toNat ≤ cfg.npix + 1) :
    decode cfg (encode (.rdPixbuf i)) = .instr (.rdPixbuf i) := by
  obtain ⟨h1, h2, h3⟩ := pixbufOffset_fields i
  simp [encode, readOf, decode, decodeHost, checkAccess, regAt, readInstr, h1, h2, h3, h,
    extract_snapField_ne h2]

/-- An access is an instruction exactly when every check of R100 passes. -/
theorem checkAccess_eq_instr {cfg : Config} {width : Nat} {off : Offset} {pick : Reg → Option Instr}
    {i : Instr} : checkAccess cfg width off pick = .instr i ↔
      width = 32 ∧ off.extractLsb' 0 2 = 0b00#2 ∧ ∃ r, regAt cfg off = some r ∧ pick r = some i := by
  unfold checkAccess
  split
  · simp [*]
  · split
    · simp [*]
    · cases hr : regAt cfg off with
      | none => simp
      | some r => cases hp : pick r <;> simp_all

/-- A row of the map gives its register its own offset. -/
theorem regTable_offset : ∀ row ∈ regTable, row.2.offset.toNat = row.1 := by decide

theorem snapOffset_toNat (i : BitVec 10) : (Reg.snap i).offset.toNat = 0x1000 + 4 * i.toNat := by
  have := toNat_append_add (0b001#3 ++ i) 0b00#2
  have h2 := toNat_append_add 0b001#3 i
  simp only [Reg.offset]
  simp at this h2 ⊢
  omega

theorem pixbufOffset_toNat (i : BitVec 12) : (Reg.pixbuf i).offset.toNat = 0x4000 + 4 * i.toNat := by
  have := toNat_append_add (0b1#1 ++ i) 0b00#2
  have h2 := toNat_append_add 0b1#1 i
  simp only [Reg.offset]
  simp at this h2 ⊢
  omega

/-- The three places a register is found at: its window, or its row. -/
theorem regAt_cases {cfg : Config} {off : Offset} {r : Reg} (h : regAt cfg off = some r) :
    (∃ i : BitVec 10, r = .snap i ∧ i.toNat < cfg.count ∧ off.toNat / 4096 = 1 ∧
      i.toNat = off.toNat / 4 % 1024) ∨
    (∃ i : BitVec 12, r = .pixbuf i ∧ i.toNat ≤ cfg.npix + 1 ∧ off.toNat / 16384 = 1 ∧
      i.toNat = off.toNat / 4 % 4096) ∨
    ((off.toNat, r) ∈ regTable) := by
  unfold regAt at h
  split at h
  · rename_i h1
    split at h <;> cases h
    have := congrArg BitVec.toNat h1
    simp [BitVec.extractLsb'_toNat, Nat.shiftRight_eq_div_pow] at this
    refine .inl ⟨_, rfl, by assumption, by omega, ?_⟩
    simp [BitVec.extractLsb'_toNat, Nat.shiftRight_eq_div_pow]
  · split at h
    · rename_i h1
      split at h <;> cases h
      have := congrArg BitVec.toNat h1
      simp [BitVec.extractLsb'_toNat, Nat.shiftRight_eq_div_pow] at this
      refine .inr (.inl ⟨_, rfl, by assumption, by omega, ?_⟩)
      simp [BitVec.extractLsb'_toNat, Nat.shiftRight_eq_div_pow]
    · obtain ⟨row, hrow, rfl⟩ := Option.map_eq_some_iff.mp h
      have hk := List.find?_some hrow
      have hm := List.mem_of_find?_eq_some hrow
      simp only [beq_iff_eq] at hk
      rw [← hk]
      exact .inr (.inr hm)

/-- An aligned offset with a register is that register's own. -/
theorem offset_of_regAt {cfg : Config} {off : Offset} {r : Reg}
    (ha : off.extractLsb' 0 2 = 0b00#2) (h : regAt cfg off = some r) : r.offset = off := by
  have ha' := congrArg BitVec.toNat ha
  simp [BitVec.extractLsb'_toNat] at ha'
  apply BitVec.eq_of_toNat_eq
  rcases regAt_cases h with ⟨i, rfl, -, h1, h2⟩ | ⟨i, rfl, -, h1, h2⟩ | hm
  · rw [snapOffset_toNat]; omega
  · rw [pixbufOffset_toNat]; omega
  · exact regTable_offset _ hm

end Sys2Proof
end

