-- ==== Sys2Proof/Laws/State.lean ====
section
/-! SUPPORT. Each field under each named update: one lemma a field, so that no later proof unfolds a
record update. -/
namespace Sys2Proof.Machine

variable (s : State)

@[simp] theorem respond_cfg (r : Response) : (respond r s).cfg = s.cfg := rfl
@[simp] theorem respond_link (r : Response) : (respond r s).link = s.link := rfl
@[simp] theorem respond_offsecs (r : Response) : (respond r s).offsecs = s.offsecs := rfl
@[simp] theorem respond_framecount (r : Response) : (respond r s).framecount = s.framecount := rfl
@[simp] theorem respond_acc (r : Response) : (respond r s).acc = s.acc := rfl
@[simp] theorem respond_armed (r : Response) : (respond r s).armed = s.armed := rfl
@[simp] theorem respond_idle (r : Response) : (respond r s).idle = s.idle := rfl
@[simp] theorem respond_snap (r : Response) : (respond r s).snap = s.snap := rfl
@[simp] theorem respond_snapseq (r : Response) : (respond r s).snapseq = s.snapseq := rfl
@[simp] theorem respond_buf (r : Response) : (respond r s).buf = s.buf := rfl
@[simp] theorem respond_dirty (r : Response) : (respond r s).dirty = s.dirty := rfl
@[simp] theorem respond_txBusy (r : Response) : (respond r s).txBusy = s.txBusy := rfl
@[simp] theorem respond_txIdx (r : Response) : (respond r s).txIdx = s.txIdx := rfl
@[simp] theorem respond_txBit (r : Response) : (respond r s).txBit = s.txBit := rfl
@[simp] theorem respond_txWord (r : Response) : (respond r s).txWord = s.txWord := rfl
@[simp] theorem respond_ledClk (r : Response) : (respond r s).ledClk = s.ledClk := rfl
@[simp] theorem respond_ledData (r : Response) : (respond r s).ledData = s.ledData := rfl
@[simp] theorem respond_feBusy (r : Response) : (respond r s).feBusy = s.feBusy := rfl
@[simp] theorem respond_feIdx (r : Response) : (respond r s).feIdx = s.feIdx := rfl
@[simp] theorem respond_feLast (r : Response) : (respond r s).feLast = s.feLast := rfl
@[simp] theorem respond_feWord (r : Response) : (respond r s).feWord = s.feWord := rfl
@[simp] theorem respond_irqFlags (r : Response) : (respond r s).irqFlags = s.irqFlags := rfl
@[simp] theorem respond_irqEn (r : Response) : (respond r s).irqEn = s.irqEn := rfl
@[simp] theorem respond_argBright (r : Response) : (respond r s).argBright = s.argBright := rfl
@[simp] theorem respond_argRed (r : Response) : (respond r s).argRed = s.argRed := rfl
@[simp] theorem respond_argGreen (r : Response) : (respond r s).argGreen = s.argGreen := rfl
@[simp] theorem respond_argBlue (r : Response) : (respond r s).argBlue = s.argBlue := rfl
@[simp] theorem respond_argFirst (r : Response) : (respond r s).argFirst = s.argFirst := rfl
@[simp] theorem respond_argLast (r : Response) : (respond r s).argLast = s.argLast := rfl
@[simp] theorem respond_encResult (r : Response) : (respond r s).encResult = s.encResult := rfl
@[simp] theorem respond_cmdWait (r : Response) : (respond r s).cmdWait = s.cmdWait := rfl
@[simp] theorem respond_responses (r : Response) : (respond r s).responses = s.responses ++ [r] := rfl
@[simp] theorem respond_wire (r : Response) : (respond r s).wire = s.wire := rfl
@[simp] theorem respond_hostQueue (r : Response) : (respond r s).hostQueue = s.hostQueue := rfl
@[simp] theorem respond_turns (r : Response) : (respond r s).turns = s.turns := rfl
@[simp] theorem respond_cycles (r : Response) : (respond r s).cycles = s.cycles := rfl

@[simp] theorem setFlag_cfg (f : Flag) : (setFlag f s).cfg = s.cfg := rfl
@[simp] theorem setFlag_link (f : Flag) : (setFlag f s).link = s.link := rfl
@[simp] theorem setFlag_offsecs (f : Flag) : (setFlag f s).offsecs = s.offsecs := rfl
@[simp] theorem setFlag_framecount (f : Flag) : (setFlag f s).framecount = s.framecount := rfl
@[simp] theorem setFlag_acc (f : Flag) : (setFlag f s).acc = s.acc := rfl
@[simp] theorem setFlag_armed (f : Flag) : (setFlag f s).armed = s.armed := rfl
@[simp] theorem setFlag_idle (f : Flag) : (setFlag f s).idle = s.idle := rfl
@[simp] theorem setFlag_snap (f : Flag) : (setFlag f s).snap = s.snap := rfl
@[simp] theorem setFlag_snapseq (f : Flag) : (setFlag f s).snapseq = s.snapseq := rfl
@[simp] theorem setFlag_buf (f : Flag) : (setFlag f s).buf = s.buf := rfl
@[simp] theorem setFlag_dirty (f : Flag) : (setFlag f s).dirty = s.dirty := rfl
@[simp] theorem setFlag_txBusy (f : Flag) : (setFlag f s).txBusy = s.txBusy := rfl
@[simp] theorem setFlag_txIdx (f : Flag) : (setFlag f s).txIdx = s.txIdx := rfl
@[simp] theorem setFlag_txBit (f : Flag) : (setFlag f s).txBit = s.txBit := rfl
@[simp] theorem setFlag_txWord (f : Flag) : (setFlag f s).txWord = s.txWord := rfl
@[simp] theorem setFlag_ledClk (f : Flag) : (setFlag f s).ledClk = s.ledClk := rfl
@[simp] theorem setFlag_ledData (f : Flag) : (setFlag f s).ledData = s.ledData := rfl
@[simp] theorem setFlag_feBusy (f : Flag) : (setFlag f s).feBusy = s.feBusy := rfl
@[simp] theorem setFlag_feIdx (f : Flag) : (setFlag f s).feIdx = s.feIdx := rfl
@[simp] theorem setFlag_feLast (f : Flag) : (setFlag f s).feLast = s.feLast := rfl
@[simp] theorem setFlag_feWord (f : Flag) : (setFlag f s).feWord = s.feWord := rfl
@[simp] theorem setFlag_irqFlags (f : Flag) : (setFlag f s).irqFlags = s.irqFlags ||| (1#5 <<< f.bit) := rfl
@[simp] theorem setFlag_irqEn (f : Flag) : (setFlag f s).irqEn = s.irqEn := rfl
@[simp] theorem setFlag_argBright (f : Flag) : (setFlag f s).argBright = s.argBright := rfl
@[simp] theorem setFlag_argRed (f : Flag) : (setFlag f s).argRed = s.argRed := rfl
@[simp] theorem setFlag_argGreen (f : Flag) : (setFlag f s).argGreen = s.argGreen := rfl
@[simp] theorem setFlag_argBlue (f : Flag) : (setFlag f s).argBlue = s.argBlue := rfl
@[simp] theorem setFlag_argFirst (f : Flag) : (setFlag f s).argFirst = s.argFirst := rfl
@[simp] theorem setFlag_argLast (f : Flag) : (setFlag f s).argLast = s.argLast := rfl
@[simp] theorem setFlag_encResult (f : Flag) : (setFlag f s).encResult = s.encResult := rfl
@[simp] theorem setFlag_cmdWait (f : Flag) : (setFlag f s).cmdWait = s.cmdWait := rfl
@[simp] theorem setFlag_responses (f : Flag) : (setFlag f s).responses = s.responses := rfl
@[simp] theorem setFlag_wire (f : Flag) : (setFlag f s).wire = s.wire := rfl
@[simp] theorem setFlag_hostQueue (f : Flag) : (setFlag f s).hostQueue = s.hostQueue := rfl
@[simp] theorem setFlag_turns (f : Flag) : (setFlag f s).turns = s.turns := rfl
@[simp] theorem setFlag_cycles (f : Flag) : (setFlag f s).cycles = s.cycles := rfl

@[simp] theorem clearFlags_cfg (d : Word) : (clearFlags d s).cfg = s.cfg := rfl
@[simp] theorem clearFlags_link (d : Word) : (clearFlags d s).link = s.link := rfl
@[simp] theorem clearFlags_offsecs (d : Word) : (clearFlags d s).offsecs = s.offsecs := rfl
@[simp] theorem clearFlags_framecount (d : Word) : (clearFlags d s).framecount = s.framecount := rfl
@[simp] theorem clearFlags_acc (d : Word) : (clearFlags d s).acc = s.acc := rfl
@[simp] theorem clearFlags_armed (d : Word) : (clearFlags d s).armed = s.armed := rfl
@[simp] theorem clearFlags_idle (d : Word) : (clearFlags d s).idle = s.idle := rfl
@[simp] theorem clearFlags_snap (d : Word) : (clearFlags d s).snap = s.snap := rfl
@[simp] theorem clearFlags_snapseq (d : Word) : (clearFlags d s).snapseq = s.snapseq := rfl
@[simp] theorem clearFlags_buf (d : Word) : (clearFlags d s).buf = s.buf := rfl
@[simp] theorem clearFlags_dirty (d : Word) : (clearFlags d s).dirty = s.dirty := rfl
@[simp] theorem clearFlags_txBusy (d : Word) : (clearFlags d s).txBusy = s.txBusy := rfl
@[simp] theorem clearFlags_txIdx (d : Word) : (clearFlags d s).txIdx = s.txIdx := rfl
@[simp] theorem clearFlags_txBit (d : Word) : (clearFlags d s).txBit = s.txBit := rfl
@[simp] theorem clearFlags_txWord (d : Word) : (clearFlags d s).txWord = s.txWord := rfl
@[simp] theorem clearFlags_ledClk (d : Word) : (clearFlags d s).ledClk = s.ledClk := rfl
@[simp] theorem clearFlags_ledData (d : Word) : (clearFlags d s).ledData = s.ledData := rfl
@[simp] theorem clearFlags_feBusy (d : Word) : (clearFlags d s).feBusy = s.feBusy := rfl
@[simp] theorem clearFlags_feIdx (d : Word) : (clearFlags d s).feIdx = s.feIdx := rfl
@[simp] theorem clearFlags_feLast (d : Word) : (clearFlags d s).feLast = s.feLast := rfl
@[simp] theorem clearFlags_feWord (d : Word) : (clearFlags d s).feWord = s.feWord := rfl
@[simp] theorem clearFlags_irqFlags (d : Word) : (clearFlags d s).irqFlags = s.irqFlags &&& ~~~(d.extractLsb' 0 5) := rfl
@[simp] theorem clearFlags_irqEn (d : Word) : (clearFlags d s).irqEn = s.irqEn := rfl
@[simp] theorem clearFlags_argBright (d : Word) : (clearFlags d s).argBright = s.argBright := rfl
@[simp] theorem clearFlags_argRed (d : Word) : (clearFlags d s).argRed = s.argRed := rfl
@[simp] theorem clearFlags_argGreen (d : Word) : (clearFlags d s).argGreen = s.argGreen := rfl
@[simp] theorem clearFlags_argBlue (d : Word) : (clearFlags d s).argBlue = s.argBlue := rfl
@[simp] theorem clearFlags_argFirst (d : Word) : (clearFlags d s).argFirst = s.argFirst := rfl
@[simp] theorem clearFlags_argLast (d : Word) : (clearFlags d s).argLast = s.argLast := rfl
@[simp] theorem clearFlags_encResult (d : Word) : (clearFlags d s).encResult = s.encResult := rfl
@[simp] theorem clearFlags_cmdWait (d : Word) : (clearFlags d s).cmdWait = s.cmdWait := rfl
@[simp] theorem clearFlags_responses (d : Word) : (clearFlags d s).responses = s.responses := rfl
@[simp] theorem clearFlags_wire (d : Word) : (clearFlags d s).wire = s.wire := rfl
@[simp] theorem clearFlags_hostQueue (d : Word) : (clearFlags d s).hostQueue = s.hostQueue := rfl
@[simp] theorem clearFlags_turns (d : Word) : (clearFlags d s).turns = s.turns := rfl
@[simp] theorem clearFlags_cycles (d : Word) : (clearFlags d s).cycles = s.cycles := rfl

@[simp] theorem appendByte_cfg (b : Byte) : (appendByte b s).cfg = s.cfg := rfl
@[simp] theorem appendByte_link (b : Byte) : (appendByte b s).link = s.link := rfl
@[simp] theorem appendByte_offsecs (b : Byte) : (appendByte b s).offsecs = s.offsecs := rfl
@[simp] theorem appendByte_framecount (b : Byte) : (appendByte b s).framecount = s.framecount := rfl
@[simp] theorem appendByte_acc (b : Byte) : (appendByte b s).acc = s.acc ++ [b] := rfl
@[simp] theorem appendByte_armed (b : Byte) : (appendByte b s).armed = true := rfl
@[simp] theorem appendByte_idle (b : Byte) : (appendByte b s).idle = 0 := rfl
@[simp] theorem appendByte_snap (b : Byte) : (appendByte b s).snap = s.snap := rfl
@[simp] theorem appendByte_snapseq (b : Byte) : (appendByte b s).snapseq = s.snapseq := rfl
@[simp] theorem appendByte_buf (b : Byte) : (appendByte b s).buf = s.buf := rfl
@[simp] theorem appendByte_dirty (b : Byte) : (appendByte b s).dirty = s.dirty := rfl
@[simp] theorem appendByte_txBusy (b : Byte) : (appendByte b s).txBusy = s.txBusy := rfl
@[simp] theorem appendByte_txIdx (b : Byte) : (appendByte b s).txIdx = s.txIdx := rfl
@[simp] theorem appendByte_txBit (b : Byte) : (appendByte b s).txBit = s.txBit := rfl
@[simp] theorem appendByte_txWord (b : Byte) : (appendByte b s).txWord = s.txWord := rfl
@[simp] theorem appendByte_ledClk (b : Byte) : (appendByte b s).ledClk = s.ledClk := rfl
@[simp] theorem appendByte_ledData (b : Byte) : (appendByte b s).ledData = s.ledData := rfl
@[simp] theorem appendByte_feBusy (b : Byte) : (appendByte b s).feBusy = s.feBusy := rfl
@[simp] theorem appendByte_feIdx (b : Byte) : (appendByte b s).feIdx = s.feIdx := rfl
@[simp] theorem appendByte_feLast (b : Byte) : (appendByte b s).feLast = s.feLast := rfl
@[simp] theorem appendByte_feWord (b : Byte) : (appendByte b s).feWord = s.feWord := rfl
@[simp] theorem appendByte_irqFlags (b : Byte) : (appendByte b s).irqFlags = s.irqFlags := rfl
@[simp] theorem appendByte_irqEn (b : Byte) : (appendByte b s).irqEn = s.irqEn := rfl
@[simp] theorem appendByte_argBright (b : Byte) : (appendByte b s).argBright = s.argBright := rfl
@[simp] theorem appendByte_argRed (b : Byte) : (appendByte b s).argRed = s.argRed := rfl
@[simp] theorem appendByte_argGreen (b : Byte) : (appendByte b s).argGreen = s.argGreen := rfl
@[simp] theorem appendByte_argBlue (b : Byte) : (appendByte b s).argBlue = s.argBlue := rfl
@[simp] theorem appendByte_argFirst (b : Byte) : (appendByte b s).argFirst = s.argFirst := rfl
@[simp] theorem appendByte_argLast (b : Byte) : (appendByte b s).argLast = s.argLast := rfl
@[simp] theorem appendByte_encResult (b : Byte) : (appendByte b s).encResult = s.encResult := rfl
@[simp] theorem appendByte_cmdWait (b : Byte) : (appendByte b s).cmdWait = s.cmdWait := rfl
@[simp] theorem appendByte_responses (b : Byte) : (appendByte b s).responses = s.responses := rfl
@[simp] theorem appendByte_wire (b : Byte) : (appendByte b s).wire = s.wire := rfl
@[simp] theorem appendByte_hostQueue (b : Byte) : (appendByte b s).hostQueue = s.hostQueue := rfl
@[simp] theorem appendByte_turns (b : Byte) : (appendByte b s).turns = s.turns := rfl
@[simp] theorem appendByte_cycles (b : Byte) : (appendByte b s).cycles = s.cycles := rfl

@[simp] theorem discardAcc_cfg : (discardAcc s).cfg = s.cfg := rfl
@[simp] theorem discardAcc_link : (discardAcc s).link = s.link := rfl
@[simp] theorem discardAcc_offsecs : (discardAcc s).offsecs = s.offsecs := rfl
@[simp] theorem discardAcc_framecount : (discardAcc s).framecount = s.framecount := rfl
@[simp] theorem discardAcc_acc : (discardAcc s).acc = [] := rfl
@[simp] theorem discardAcc_armed : (discardAcc s).armed = s.armed := rfl
@[simp] theorem discardAcc_idle : (discardAcc s).idle = s.idle := rfl
@[simp] theorem discardAcc_snap : (discardAcc s).snap = s.snap := rfl
@[simp] theorem discardAcc_snapseq : (discardAcc s).snapseq = s.snapseq := rfl
@[simp] theorem discardAcc_buf : (discardAcc s).buf = s.buf := rfl
@[simp] theorem discardAcc_dirty : (discardAcc s).dirty = s.dirty := rfl
@[simp] theorem discardAcc_txBusy : (discardAcc s).txBusy = s.txBusy := rfl
@[simp] theorem discardAcc_txIdx : (discardAcc s).txIdx = s.txIdx := rfl
@[simp] theorem discardAcc_txBit : (discardAcc s).txBit = s.txBit := rfl
@[simp] theorem discardAcc_txWord : (discardAcc s).txWord = s.txWord := rfl
@[simp] theorem discardAcc_ledClk : (discardAcc s).ledClk = s.ledClk := rfl
@[simp] theorem discardAcc_ledData : (discardAcc s).ledData = s.ledData := rfl
@[simp] theorem discardAcc_feBusy : (discardAcc s).feBusy = s.feBusy := rfl
@[simp] theorem discardAcc_feIdx : (discardAcc s).feIdx = s.feIdx := rfl
@[simp] theorem discardAcc_feLast : (discardAcc s).feLast = s.feLast := rfl
@[simp] theorem discardAcc_feWord : (discardAcc s).feWord = s.feWord := rfl
@[simp] theorem discardAcc_irqFlags : (discardAcc s).irqFlags = s.irqFlags ||| (1#5 <<< Flag.ovf.bit) := rfl
@[simp] theorem discardAcc_irqEn : (discardAcc s).irqEn = s.irqEn := rfl
@[simp] theorem discardAcc_argBright : (discardAcc s).argBright = s.argBright := rfl
@[simp] theorem discardAcc_argRed : (discardAcc s).argRed = s.argRed := rfl
@[simp] theorem discardAcc_argGreen : (discardAcc s).argGreen = s.argGreen := rfl
@[simp] theorem discardAcc_argBlue : (discardAcc s).argBlue = s.argBlue := rfl
@[simp] theorem discardAcc_argFirst : (discardAcc s).argFirst = s.argFirst := rfl
@[simp] theorem discardAcc_argLast : (discardAcc s).argLast = s.argLast := rfl
@[simp] theorem discardAcc_encResult : (discardAcc s).encResult = s.encResult := rfl
@[simp] theorem discardAcc_cmdWait : (discardAcc s).cmdWait = s.cmdWait := rfl
@[simp] theorem discardAcc_responses : (discardAcc s).responses = s.responses := rfl
@[simp] theorem discardAcc_wire : (discardAcc s).wire = s.wire := rfl
@[simp] theorem discardAcc_hostQueue : (discardAcc s).hostQueue = s.hostQueue := rfl
@[simp] theorem discardAcc_turns : (discardAcc s).turns = s.turns := rfl
@[simp] theorem discardAcc_cycles : (discardAcc s).cycles = s.cycles := rfl

@[simp] theorem latch_cfg : (latch s).cfg = s.cfg := rfl
@[simp] theorem latch_link : (latch s).link = s.link := rfl
@[simp] theorem latch_offsecs : (latch s).offsecs = s.offsecs := rfl
@[simp] theorem latch_framecount : (latch s).framecount = satInc16 s.framecount := rfl
@[simp] theorem latch_acc : (latch s).acc = s.acc := rfl
@[simp] theorem latch_armed : (latch s).armed = s.armed := rfl
@[simp] theorem latch_idle : (latch s).idle = s.idle := rfl
@[simp] theorem latch_snap : (latch s).snap = (s.acc.drop s.cfg.base).take s.cfg.count := rfl
@[simp] theorem latch_snapseq : (latch s).snapseq = s.snapseq + 1 := rfl
@[simp] theorem latch_buf : (latch s).buf = s.buf := rfl
@[simp] theorem latch_dirty : (latch s).dirty = s.dirty := rfl
@[simp] theorem latch_txBusy : (latch s).txBusy = s.txBusy := rfl
@[simp] theorem latch_txIdx : (latch s).txIdx = s.txIdx := rfl
@[simp] theorem latch_txBit : (latch s).txBit = s.txBit := rfl
@[simp] theorem latch_txWord : (latch s).txWord = s.txWord := rfl
@[simp] theorem latch_ledClk : (latch s).ledClk = s.ledClk := rfl
@[simp] theorem latch_ledData : (latch s).ledData = s.ledData := rfl
@[simp] theorem latch_feBusy : (latch s).feBusy = s.feBusy := rfl
@[simp] theorem latch_feIdx : (latch s).feIdx = s.feIdx := rfl
@[simp] theorem latch_feLast : (latch s).feLast = s.feLast := rfl
@[simp] theorem latch_feWord : (latch s).feWord = s.feWord := rfl
@[simp] theorem latch_irqFlags : (latch s).irqFlags = s.irqFlags ||| (1#5 <<< Flag.chupd.bit) := rfl
@[simp] theorem latch_irqEn : (latch s).irqEn = s.irqEn := rfl
@[simp] theorem latch_argBright : (latch s).argBright = s.argBright := rfl
@[simp] theorem latch_argRed : (latch s).argRed = s.argRed := rfl
@[simp] theorem latch_argGreen : (latch s).argGreen = s.argGreen := rfl
@[simp] theorem latch_argBlue : (latch s).argBlue = s.argBlue := rfl
@[simp] theorem latch_argFirst : (latch s).argFirst = s.argFirst := rfl
@[simp] theorem latch_argLast : (latch s).argLast = s.argLast := rfl
@[simp] theorem latch_encResult : (latch s).encResult = s.encResult := rfl
@[simp] theorem latch_cmdWait : (latch s).cmdWait = s.cmdWait := rfl
@[simp] theorem latch_responses : (latch s).responses = s.responses := rfl
@[simp] theorem latch_wire : (latch s).wire = s.wire := rfl
@[simp] theorem latch_hostQueue : (latch s).hostQueue = s.hostQueue := rfl
@[simp] theorem latch_turns : (latch s).turns = s.turns := rfl
@[simp] theorem latch_cycles : (latch s).cycles = s.cycles := rfl

@[simp] theorem consumeAcc_cfg : (consumeAcc s).cfg = s.cfg := rfl
@[simp] theorem consumeAcc_link : (consumeAcc s).link = s.link := rfl
@[simp] theorem consumeAcc_offsecs : (consumeAcc s).offsecs = s.offsecs := rfl
@[simp] theorem consumeAcc_framecount : (consumeAcc s).framecount = s.framecount := rfl
@[simp] theorem consumeAcc_acc : (consumeAcc s).acc = [] := rfl
@[simp] theorem consumeAcc_armed : (consumeAcc s).armed = false := rfl
@[simp] theorem consumeAcc_idle : (consumeAcc s).idle = s.idle := rfl
@[simp] theorem consumeAcc_snap : (consumeAcc s).snap = s.snap := rfl
@[simp] theorem consumeAcc_snapseq : (consumeAcc s).snapseq = s.snapseq := rfl
@[simp] theorem consumeAcc_buf : (consumeAcc s).buf = s.buf := rfl
@[simp] theorem consumeAcc_dirty : (consumeAcc s).dirty = s.dirty := rfl
@[simp] theorem consumeAcc_txBusy : (consumeAcc s).txBusy = s.txBusy := rfl
@[simp] theorem consumeAcc_txIdx : (consumeAcc s).txIdx = s.txIdx := rfl
@[simp] theorem consumeAcc_txBit : (consumeAcc s).txBit = s.txBit := rfl
@[simp] theorem consumeAcc_txWord : (consumeAcc s).txWord = s.txWord := rfl
@[simp] theorem consumeAcc_ledClk : (consumeAcc s).ledClk = s.ledClk := rfl
@[simp] theorem consumeAcc_ledData : (consumeAcc s).ledData = s.ledData := rfl
@[simp] theorem consumeAcc_feBusy : (consumeAcc s).feBusy = s.feBusy := rfl
@[simp] theorem consumeAcc_feIdx : (consumeAcc s).feIdx = s.feIdx := rfl
@[simp] theorem consumeAcc_feLast : (consumeAcc s).feLast = s.feLast := rfl
@[simp] theorem consumeAcc_feWord : (consumeAcc s).feWord = s.feWord := rfl
@[simp] theorem consumeAcc_irqFlags : (consumeAcc s).irqFlags = s.irqFlags := rfl
@[simp] theorem consumeAcc_irqEn : (consumeAcc s).irqEn = s.irqEn := rfl
@[simp] theorem consumeAcc_argBright : (consumeAcc s).argBright = s.argBright := rfl
@[simp] theorem consumeAcc_argRed : (consumeAcc s).argRed = s.argRed := rfl
@[simp] theorem consumeAcc_argGreen : (consumeAcc s).argGreen = s.argGreen := rfl
@[simp] theorem consumeAcc_argBlue : (consumeAcc s).argBlue = s.argBlue := rfl
@[simp] theorem consumeAcc_argFirst : (consumeAcc s).argFirst = s.argFirst := rfl
@[simp] theorem consumeAcc_argLast : (consumeAcc s).argLast = s.argLast := rfl
@[simp] theorem consumeAcc_encResult : (consumeAcc s).encResult = s.encResult := rfl
@[simp] theorem consumeAcc_cmdWait : (consumeAcc s).cmdWait = s.cmdWait := rfl
@[simp] theorem consumeAcc_responses : (consumeAcc s).responses = s.responses := rfl
@[simp] theorem consumeAcc_wire : (consumeAcc s).wire = s.wire := rfl
@[simp] theorem consumeAcc_hostQueue : (consumeAcc s).hostQueue = s.hostQueue := rfl
@[simp] theorem consumeAcc_turns : (consumeAcc s).turns = s.turns := rfl
@[simp] theorem consumeAcc_cycles : (consumeAcc s).cycles = s.cycles := rfl

@[simp] theorem countTick_cfg : (countTick s).cfg = s.cfg := rfl
@[simp] theorem countTick_link : (countTick s).link = s.link := rfl
@[simp] theorem countTick_offsecs : (countTick s).offsecs = s.offsecs := rfl
@[simp] theorem countTick_framecount : (countTick s).framecount = s.framecount := rfl
@[simp] theorem countTick_acc : (countTick s).acc = s.acc := rfl
@[simp] theorem countTick_armed : (countTick s).armed = s.armed := rfl
@[simp] theorem countTick_idle : (countTick s).idle = satInc16 s.idle := rfl
@[simp] theorem countTick_snap : (countTick s).snap = s.snap := rfl
@[simp] theorem countTick_snapseq : (countTick s).snapseq = s.snapseq := rfl
@[simp] theorem countTick_buf : (countTick s).buf = s.buf := rfl
@[simp] theorem countTick_dirty : (countTick s).dirty = s.dirty := rfl
@[simp] theorem countTick_txBusy : (countTick s).txBusy = s.txBusy := rfl
@[simp] theorem countTick_txIdx : (countTick s).txIdx = s.txIdx := rfl
@[simp] theorem countTick_txBit : (countTick s).txBit = s.txBit := rfl
@[simp] theorem countTick_txWord : (countTick s).txWord = s.txWord := rfl
@[simp] theorem countTick_ledClk : (countTick s).ledClk = s.ledClk := rfl
@[simp] theorem countTick_ledData : (countTick s).ledData = s.ledData := rfl
@[simp] theorem countTick_feBusy : (countTick s).feBusy = s.feBusy := rfl
@[simp] theorem countTick_feIdx : (countTick s).feIdx = s.feIdx := rfl
@[simp] theorem countTick_feLast : (countTick s).feLast = s.feLast := rfl
@[simp] theorem countTick_feWord : (countTick s).feWord = s.feWord := rfl
@[simp] theorem countTick_irqFlags : (countTick s).irqFlags = s.irqFlags := rfl
@[simp] theorem countTick_irqEn : (countTick s).irqEn = s.irqEn := rfl
@[simp] theorem countTick_argBright : (countTick s).argBright = s.argBright := rfl
@[simp] theorem countTick_argRed : (countTick s).argRed = s.argRed := rfl
@[simp] theorem countTick_argGreen : (countTick s).argGreen = s.argGreen := rfl
@[simp] theorem countTick_argBlue : (countTick s).argBlue = s.argBlue := rfl
@[simp] theorem countTick_argFirst : (countTick s).argFirst = s.argFirst := rfl
@[simp] theorem countTick_argLast : (countTick s).argLast = s.argLast := rfl
@[simp] theorem countTick_encResult : (countTick s).encResult = s.encResult := rfl
@[simp] theorem countTick_cmdWait : (countTick s).cmdWait = s.cmdWait := rfl
@[simp] theorem countTick_responses : (countTick s).responses = s.responses := rfl
@[simp] theorem countTick_wire : (countTick s).wire = s.wire := rfl
@[simp] theorem countTick_hostQueue : (countTick s).hostQueue = s.hostQueue := rfl
@[simp] theorem countTick_turns : (countTick s).turns = s.turns := rfl
@[simp] theorem countTick_cycles : (countTick s).cycles = s.cycles := rfl

@[simp] theorem emit_cfg (x : Bool) : (emit x s).cfg = s.cfg := rfl
@[simp] theorem emit_link (x : Bool) : (emit x s).link = s.link := rfl
@[simp] theorem emit_offsecs (x : Bool) : (emit x s).offsecs = s.offsecs := rfl
@[simp] theorem emit_framecount (x : Bool) : (emit x s).framecount = s.framecount := rfl
@[simp] theorem emit_acc (x : Bool) : (emit x s).acc = s.acc := rfl
@[simp] theorem emit_armed (x : Bool) : (emit x s).armed = s.armed := rfl
@[simp] theorem emit_idle (x : Bool) : (emit x s).idle = s.idle := rfl
@[simp] theorem emit_snap (x : Bool) : (emit x s).snap = s.snap := rfl
@[simp] theorem emit_snapseq (x : Bool) : (emit x s).snapseq = s.snapseq := rfl
@[simp] theorem emit_buf (x : Bool) : (emit x s).buf = s.buf := rfl
@[simp] theorem emit_dirty (x : Bool) : (emit x s).dirty = s.dirty := rfl
@[simp] theorem emit_txBusy (x : Bool) : (emit x s).txBusy = s.txBusy := rfl
@[simp] theorem emit_txIdx (x : Bool) : (emit x s).txIdx = s.txIdx := rfl
@[simp] theorem emit_txBit (x : Bool) : (emit x s).txBit = s.txBit := rfl
@[simp] theorem emit_txWord (x : Bool) : (emit x s).txWord = s.txWord := rfl
@[simp] theorem emit_ledClk (x : Bool) : (emit x s).ledClk = false := rfl
@[simp] theorem emit_ledData (x : Bool) : (emit x s).ledData = x := rfl
@[simp] theorem emit_feBusy (x : Bool) : (emit x s).feBusy = s.feBusy := rfl
@[simp] theorem emit_feIdx (x : Bool) : (emit x s).feIdx = s.feIdx := rfl
@[simp] theorem emit_feLast (x : Bool) : (emit x s).feLast = s.feLast := rfl
@[simp] theorem emit_feWord (x : Bool) : (emit x s).feWord = s.feWord := rfl
@[simp] theorem emit_irqFlags (x : Bool) : (emit x s).irqFlags = s.irqFlags := rfl
@[simp] theorem emit_irqEn (x : Bool) : (emit x s).irqEn = s.irqEn := rfl
@[simp] theorem emit_argBright (x : Bool) : (emit x s).argBright = s.argBright := rfl
@[simp] theorem emit_argRed (x : Bool) : (emit x s).argRed = s.argRed := rfl
@[simp] theorem emit_argGreen (x : Bool) : (emit x s).argGreen = s.argGreen := rfl
@[simp] theorem emit_argBlue (x : Bool) : (emit x s).argBlue = s.argBlue := rfl
@[simp] theorem emit_argFirst (x : Bool) : (emit x s).argFirst = s.argFirst := rfl
@[simp] theorem emit_argLast (x : Bool) : (emit x s).argLast = s.argLast := rfl
@[simp] theorem emit_encResult (x : Bool) : (emit x s).encResult = s.encResult := rfl
@[simp] theorem emit_cmdWait (x : Bool) : (emit x s).cmdWait = s.cmdWait := rfl
@[simp] theorem emit_responses (x : Bool) : (emit x s).responses = s.responses := rfl
@[simp] theorem emit_wire (x : Bool) : (emit x s).wire = s.wire ++ [.bit x] := rfl
@[simp] theorem emit_hostQueue (x : Bool) : (emit x s).hostQueue = s.hostQueue := rfl
@[simp] theorem emit_turns (x : Bool) : (emit x s).turns = s.turns := rfl
@[simp] theorem emit_cycles (x : Bool) : (emit x s).cycles = s.cycles := rfl

@[simp] theorem txRest_cfg : (txRest s).cfg = s.cfg := rfl
@[simp] theorem txRest_link : (txRest s).link = s.link := rfl
@[simp] theorem txRest_offsecs : (txRest s).offsecs = s.offsecs := rfl
@[simp] theorem txRest_framecount : (txRest s).framecount = s.framecount := rfl
@[simp] theorem txRest_acc : (txRest s).acc = s.acc := rfl
@[simp] theorem txRest_armed : (txRest s).armed = s.armed := rfl
@[simp] theorem txRest_idle : (txRest s).idle = s.idle := rfl
@[simp] theorem txRest_snap : (txRest s).snap = s.snap := rfl
@[simp] theorem txRest_snapseq : (txRest s).snapseq = s.snapseq := rfl
@[simp] theorem txRest_buf : (txRest s).buf = s.buf := rfl
@[simp] theorem txRest_dirty : (txRest s).dirty = s.dirty := rfl
@[simp] theorem txRest_txBusy : (txRest s).txBusy = false := rfl
@[simp] theorem txRest_txIdx : (txRest s).txIdx = 0 := rfl
@[simp] theorem txRest_txBit : (txRest s).txBit = 31 := rfl
@[simp] theorem txRest_txWord : (txRest s).txWord = s.txWord := rfl
@[simp] theorem txRest_ledClk : (txRest s).ledClk = false := rfl
@[simp] theorem txRest_ledData : (txRest s).ledData = false := rfl
@[simp] theorem txRest_feBusy : (txRest s).feBusy = s.feBusy := rfl
@[simp] theorem txRest_feIdx : (txRest s).feIdx = s.feIdx := rfl
@[simp] theorem txRest_feLast : (txRest s).feLast = s.feLast := rfl
@[simp] theorem txRest_feWord : (txRest s).feWord = s.feWord := rfl
@[simp] theorem txRest_irqFlags : (txRest s).irqFlags = s.irqFlags := rfl
@[simp] theorem txRest_irqEn : (txRest s).irqEn = s.irqEn := rfl
@[simp] theorem txRest_argBright : (txRest s).argBright = s.argBright := rfl
@[simp] theorem txRest_argRed : (txRest s).argRed = s.argRed := rfl
@[simp] theorem txRest_argGreen : (txRest s).argGreen = s.argGreen := rfl
@[simp] theorem txRest_argBlue : (txRest s).argBlue = s.argBlue := rfl
@[simp] theorem txRest_argFirst : (txRest s).argFirst = s.argFirst := rfl
@[simp] theorem txRest_argLast : (txRest s).argLast = s.argLast := rfl
@[simp] theorem txRest_encResult : (txRest s).encResult = s.encResult := rfl
@[simp] theorem txRest_cmdWait : (txRest s).cmdWait = s.cmdWait := rfl
@[simp] theorem txRest_responses : (txRest s).responses = s.responses := rfl
@[simp] theorem txRest_wire : (txRest s).wire = s.wire := rfl
@[simp] theorem txRest_hostQueue : (txRest s).hostQueue = s.hostQueue := rfl
@[simp] theorem txRest_turns : (txRest s).turns = s.turns := rfl
@[simp] theorem txRest_cycles : (txRest s).cycles = s.cycles := rfl

@[simp] theorem txAbort_cfg : (txAbort s).cfg = s.cfg := rfl
@[simp] theorem txAbort_link : (txAbort s).link = s.link := rfl
@[simp] theorem txAbort_offsecs : (txAbort s).offsecs = s.offsecs := rfl
@[simp] theorem txAbort_framecount : (txAbort s).framecount = s.framecount := rfl
@[simp] theorem txAbort_acc : (txAbort s).acc = s.acc := rfl
@[simp] theorem txAbort_armed : (txAbort s).armed = s.armed := rfl
@[simp] theorem txAbort_idle : (txAbort s).idle = s.idle := rfl
@[simp] theorem txAbort_snap : (txAbort s).snap = s.snap := rfl
@[simp] theorem txAbort_snapseq : (txAbort s).snapseq = s.snapseq := rfl
@[simp] theorem txAbort_buf : (txAbort s).buf = s.buf := rfl
@[simp] theorem txAbort_dirty : (txAbort s).dirty = s.dirty := rfl
@[simp] theorem txAbort_txBusy : (txAbort s).txBusy = false := rfl
@[simp] theorem txAbort_txIdx : (txAbort s).txIdx = 0 := rfl
@[simp] theorem txAbort_txBit : (txAbort s).txBit = 31 := rfl
@[simp] theorem txAbort_txWord : (txAbort s).txWord = s.txWord := rfl
@[simp] theorem txAbort_ledClk : (txAbort s).ledClk = false := rfl
@[simp] theorem txAbort_ledData : (txAbort s).ledData = false := rfl
@[simp] theorem txAbort_feBusy : (txAbort s).feBusy = s.feBusy := rfl
@[simp] theorem txAbort_feIdx : (txAbort s).feIdx = s.feIdx := rfl
@[simp] theorem txAbort_feLast : (txAbort s).feLast = s.feLast := rfl
@[simp] theorem txAbort_feWord : (txAbort s).feWord = s.feWord := rfl
@[simp] theorem txAbort_irqFlags : (txAbort s).irqFlags = s.irqFlags := rfl
@[simp] theorem txAbort_irqEn : (txAbort s).irqEn = s.irqEn := rfl
@[simp] theorem txAbort_argBright : (txAbort s).argBright = s.argBright := rfl
@[simp] theorem txAbort_argRed : (txAbort s).argRed = s.argRed := rfl
@[simp] theorem txAbort_argGreen : (txAbort s).argGreen = s.argGreen := rfl
@[simp] theorem txAbort_argBlue : (txAbort s).argBlue = s.argBlue := rfl
@[simp] theorem txAbort_argFirst : (txAbort s).argFirst = s.argFirst := rfl
@[simp] theorem txAbort_argLast : (txAbort s).argLast = s.argLast := rfl
@[simp] theorem txAbort_encResult : (txAbort s).encResult = s.encResult := rfl
@[simp] theorem txAbort_cmdWait : (txAbort s).cmdWait = s.cmdWait := rfl
@[simp] theorem txAbort_responses : (txAbort s).responses = s.responses := rfl
@[simp] theorem txAbort_wire : (txAbort s).wire = s.wire ++ [.abort] := rfl
@[simp] theorem txAbort_hostQueue : (txAbort s).hostQueue = s.hostQueue := rfl
@[simp] theorem txAbort_turns : (txAbort s).turns = s.turns := rfl
@[simp] theorem txAbort_cycles : (txAbort s).cycles = s.cycles := rfl

@[simp] theorem txBegin_cfg : (txBegin s).cfg = s.cfg := rfl
@[simp] theorem txBegin_link : (txBegin s).link = s.link := rfl
@[simp] theorem txBegin_offsecs : (txBegin s).offsecs = s.offsecs := rfl
@[simp] theorem txBegin_framecount : (txBegin s).framecount = s.framecount := rfl
@[simp] theorem txBegin_acc : (txBegin s).acc = s.acc := rfl
@[simp] theorem txBegin_armed : (txBegin s).armed = s.armed := rfl
@[simp] theorem txBegin_idle : (txBegin s).idle = s.idle := rfl
@[simp] theorem txBegin_snap : (txBegin s).snap = s.snap := rfl
@[simp] theorem txBegin_snapseq : (txBegin s).snapseq = s.snapseq := rfl
@[simp] theorem txBegin_buf : (txBegin s).buf = s.buf := rfl
@[simp] theorem txBegin_dirty : (txBegin s).dirty = s.dirty := rfl
@[simp] theorem txBegin_txBusy : (txBegin s).txBusy = true := rfl
@[simp] theorem txBegin_txIdx : (txBegin s).txIdx = 0 := rfl
@[simp] theorem txBegin_txBit : (txBegin s).txBit = 31 := rfl
@[simp] theorem txBegin_txWord : (txBegin s).txWord = s.txWord := rfl
@[simp] theorem txBegin_ledClk : (txBegin s).ledClk = s.ledClk := rfl
@[simp] theorem txBegin_ledData : (txBegin s).ledData = s.ledData := rfl
@[simp] theorem txBegin_feBusy : (txBegin s).feBusy = s.feBusy := rfl
@[simp] theorem txBegin_feIdx : (txBegin s).feIdx = s.feIdx := rfl
@[simp] theorem txBegin_feLast : (txBegin s).feLast = s.feLast := rfl
@[simp] theorem txBegin_feWord : (txBegin s).feWord = s.feWord := rfl
@[simp] theorem txBegin_irqFlags : (txBegin s).irqFlags = s.irqFlags := rfl
@[simp] theorem txBegin_irqEn : (txBegin s).irqEn = s.irqEn := rfl
@[simp] theorem txBegin_argBright : (txBegin s).argBright = s.argBright := rfl
@[simp] theorem txBegin_argRed : (txBegin s).argRed = s.argRed := rfl
@[simp] theorem txBegin_argGreen : (txBegin s).argGreen = s.argGreen := rfl
@[simp] theorem txBegin_argBlue : (txBegin s).argBlue = s.argBlue := rfl
@[simp] theorem txBegin_argFirst : (txBegin s).argFirst = s.argFirst := rfl
@[simp] theorem txBegin_argLast : (txBegin s).argLast = s.argLast := rfl
@[simp] theorem txBegin_encResult : (txBegin s).encResult = s.encResult := rfl
@[simp] theorem txBegin_cmdWait : (txBegin s).cmdWait = s.cmdWait := rfl
@[simp] theorem txBegin_responses : (txBegin s).responses = s.responses := rfl
@[simp] theorem txBegin_wire : (txBegin s).wire = s.wire ++ [.start] := rfl
@[simp] theorem txBegin_hostQueue : (txBegin s).hostQueue = s.hostQueue := rfl
@[simp] theorem txBegin_turns : (txBegin s).turns = s.turns := rfl
@[simp] theorem txBegin_cycles : (txBegin s).cycles = s.cycles := rfl

@[simp] theorem startFill_cfg (w : Word) (a b : Nat) : (startFill w a b s).cfg = s.cfg := rfl
@[simp] theorem startFill_link (w : Word) (a b : Nat) : (startFill w a b s).link = s.link := rfl
@[simp] theorem startFill_offsecs (w : Word) (a b : Nat) : (startFill w a b s).offsecs = s.offsecs := rfl
@[simp] theorem startFill_framecount (w : Word) (a b : Nat) : (startFill w a b s).framecount = s.framecount := rfl
@[simp] theorem startFill_acc (w : Word) (a b : Nat) : (startFill w a b s).acc = s.acc := rfl
@[simp] theorem startFill_armed (w : Word) (a b : Nat) : (startFill w a b s).armed = s.armed := rfl
@[simp] theorem startFill_idle (w : Word) (a b : Nat) : (startFill w a b s).idle = s.idle := rfl
@[simp] theorem startFill_snap (w : Word) (a b : Nat) : (startFill w a b s).snap = s.snap := rfl
@[simp] theorem startFill_snapseq (w : Word) (a b : Nat) : (startFill w a b s).snapseq = s.snapseq := rfl
@[simp] theorem startFill_buf (w : Word) (a b : Nat) : (startFill w a b s).buf = s.buf := rfl
@[simp] theorem startFill_dirty (w : Word) (a b : Nat) : (startFill w a b s).dirty = s.dirty := rfl
@[simp] theorem startFill_txBusy (w : Word) (a b : Nat) : (startFill w a b s).txBusy = s.txBusy := rfl
@[simp] theorem startFill_txIdx (w : Word) (a b : Nat) : (startFill w a b s).txIdx = s.txIdx := rfl
@[simp] theorem startFill_txBit (w : Word) (a b : Nat) : (startFill w a b s).txBit = s.txBit := rfl
@[simp] theorem startFill_txWord (w : Word) (a b : Nat) : (startFill w a b s).txWord = s.txWord := rfl
@[simp] theorem startFill_ledClk (w : Word) (a b : Nat) : (startFill w a b s).ledClk = s.ledClk := rfl
@[simp] theorem startFill_ledData (w : Word) (a b : Nat) : (startFill w a b s).ledData = s.ledData := rfl
@[simp] theorem startFill_feBusy (w : Word) (a b : Nat) : (startFill w a b s).feBusy = true := rfl
@[simp] theorem startFill_feIdx (w : Word) (a b : Nat) : (startFill w a b s).feIdx = a := rfl
@[simp] theorem startFill_feLast (w : Word) (a b : Nat) : (startFill w a b s).feLast = b := rfl
@[simp] theorem startFill_feWord (w : Word) (a b : Nat) : (startFill w a b s).feWord = w := rfl
@[simp] theorem startFill_irqFlags (w : Word) (a b : Nat) : (startFill w a b s).irqFlags = s.irqFlags := rfl
@[simp] theorem startFill_irqEn (w : Word) (a b : Nat) : (startFill w a b s).irqEn = s.irqEn := rfl
@[simp] theorem startFill_argBright (w : Word) (a b : Nat) : (startFill w a b s).argBright = s.argBright := rfl
@[simp] theorem startFill_argRed (w : Word) (a b : Nat) : (startFill w a b s).argRed = s.argRed := rfl
@[simp] theorem startFill_argGreen (w : Word) (a b : Nat) : (startFill w a b s).argGreen = s.argGreen := rfl
@[simp] theorem startFill_argBlue (w : Word) (a b : Nat) : (startFill w a b s).argBlue = s.argBlue := rfl
@[simp] theorem startFill_argFirst (w : Word) (a b : Nat) : (startFill w a b s).argFirst = s.argFirst := rfl
@[simp] theorem startFill_argLast (w : Word) (a b : Nat) : (startFill w a b s).argLast = s.argLast := rfl
@[simp] theorem startFill_encResult (w : Word) (a b : Nat) : (startFill w a b s).encResult = s.encResult := rfl
@[simp] theorem startFill_cmdWait (w : Word) (a b : Nat) : (startFill w a b s).cmdWait = s.cmdWait := rfl
@[simp] theorem startFill_responses (w : Word) (a b : Nat) : (startFill w a b s).responses = s.responses := rfl
@[simp] theorem startFill_wire (w : Word) (a b : Nat) : (startFill w a b s).wire = s.wire := rfl
@[simp] theorem startFill_hostQueue (w : Word) (a b : Nat) : (startFill w a b s).hostQueue = s.hostQueue := rfl
@[simp] theorem startFill_turns (w : Word) (a b : Nat) : (startFill w a b s).turns = s.turns := rfl
@[simp] theorem startFill_cycles (w : Word) (a b : Nat) : (startFill w a b s).cycles = s.cycles := rfl

@[simp] theorem setDirty_cfg : (setDirty s).cfg = s.cfg := rfl
@[simp] theorem setDirty_link : (setDirty s).link = s.link := rfl
@[simp] theorem setDirty_offsecs : (setDirty s).offsecs = s.offsecs := rfl
@[simp] theorem setDirty_framecount : (setDirty s).framecount = s.framecount := rfl
@[simp] theorem setDirty_acc : (setDirty s).acc = s.acc := rfl
@[simp] theorem setDirty_armed : (setDirty s).armed = s.armed := rfl
@[simp] theorem setDirty_idle : (setDirty s).idle = s.idle := rfl
@[simp] theorem setDirty_snap : (setDirty s).snap = s.snap := rfl
@[simp] theorem setDirty_snapseq : (setDirty s).snapseq = s.snapseq := rfl
@[simp] theorem setDirty_buf : (setDirty s).buf = s.buf := rfl
@[simp] theorem setDirty_dirty : (setDirty s).dirty = true := rfl
@[simp] theorem setDirty_txBusy : (setDirty s).txBusy = s.txBusy := rfl
@[simp] theorem setDirty_txIdx : (setDirty s).txIdx = s.txIdx := rfl
@[simp] theorem setDirty_txBit : (setDirty s).txBit = s.txBit := rfl
@[simp] theorem setDirty_txWord : (setDirty s).txWord = s.txWord := rfl
@[simp] theorem setDirty_ledClk : (setDirty s).ledClk = s.ledClk := rfl
@[simp] theorem setDirty_ledData : (setDirty s).ledData = s.ledData := rfl
@[simp] theorem setDirty_feBusy : (setDirty s).feBusy = s.feBusy := rfl
@[simp] theorem setDirty_feIdx : (setDirty s).feIdx = s.feIdx := rfl
@[simp] theorem setDirty_feLast : (setDirty s).feLast = s.feLast := rfl
@[simp] theorem setDirty_feWord : (setDirty s).feWord = s.feWord := rfl
@[simp] theorem setDirty_irqFlags : (setDirty s).irqFlags = s.irqFlags := rfl
@[simp] theorem setDirty_irqEn : (setDirty s).irqEn = s.irqEn := rfl
@[simp] theorem setDirty_argBright : (setDirty s).argBright = s.argBright := rfl
@[simp] theorem setDirty_argRed : (setDirty s).argRed = s.argRed := rfl
@[simp] theorem setDirty_argGreen : (setDirty s).argGreen = s.argGreen := rfl
@[simp] theorem setDirty_argBlue : (setDirty s).argBlue = s.argBlue := rfl
@[simp] theorem setDirty_argFirst : (setDirty s).argFirst = s.argFirst := rfl
@[simp] theorem setDirty_argLast : (setDirty s).argLast = s.argLast := rfl
@[simp] theorem setDirty_encResult : (setDirty s).encResult = s.encResult := rfl
@[simp] theorem setDirty_cmdWait : (setDirty s).cmdWait = s.cmdWait := rfl
@[simp] theorem setDirty_responses : (setDirty s).responses = s.responses := rfl
@[simp] theorem setDirty_wire : (setDirty s).wire = s.wire := rfl
@[simp] theorem setDirty_hostQueue : (setDirty s).hostQueue = s.hostQueue := rfl
@[simp] theorem setDirty_turns : (setDirty s).turns = s.turns := rfl
@[simp] theorem setDirty_cycles : (setDirty s).cycles = s.cycles := rfl

@[simp] theorem storeDecision_cfg (d : LinkDecision) : (storeDecision d s).cfg = s.cfg := rfl
@[simp] theorem storeDecision_link (d : LinkDecision) : (storeDecision d s).link = d.link := rfl
@[simp] theorem storeDecision_offsecs (d : LinkDecision) : (storeDecision d s).offsecs = BitVec.ofNat 16 d.secs := rfl
@[simp] theorem storeDecision_framecount (d : LinkDecision) : (storeDecision d s).framecount = 0 := rfl
@[simp] theorem storeDecision_acc (d : LinkDecision) : (storeDecision d s).acc = s.acc := rfl
@[simp] theorem storeDecision_armed (d : LinkDecision) : (storeDecision d s).armed = s.armed := rfl
@[simp] theorem storeDecision_idle (d : LinkDecision) : (storeDecision d s).idle = s.idle := rfl
@[simp] theorem storeDecision_snap (d : LinkDecision) : (storeDecision d s).snap = s.snap := rfl
@[simp] theorem storeDecision_snapseq (d : LinkDecision) : (storeDecision d s).snapseq = s.snapseq := rfl
@[simp] theorem storeDecision_buf (d : LinkDecision) : (storeDecision d s).buf = s.buf := rfl
@[simp] theorem storeDecision_dirty (d : LinkDecision) : (storeDecision d s).dirty = s.dirty := rfl
@[simp] theorem storeDecision_txBusy (d : LinkDecision) : (storeDecision d s).txBusy = s.txBusy := rfl
@[simp] theorem storeDecision_txIdx (d : LinkDecision) : (storeDecision d s).txIdx = s.txIdx := rfl
@[simp] theorem storeDecision_txBit (d : LinkDecision) : (storeDecision d s).txBit = s.txBit := rfl
@[simp] theorem storeDecision_txWord (d : LinkDecision) : (storeDecision d s).txWord = s.txWord := rfl
@[simp] theorem storeDecision_ledClk (d : LinkDecision) : (storeDecision d s).ledClk = s.ledClk := rfl
@[simp] theorem storeDecision_ledData (d : LinkDecision) : (storeDecision d s).ledData = s.ledData := rfl
@[simp] theorem storeDecision_feBusy (d : LinkDecision) : (storeDecision d s).feBusy = s.feBusy := rfl
@[simp] theorem storeDecision_feIdx (d : LinkDecision) : (storeDecision d s).feIdx = s.feIdx := rfl
@[simp] theorem storeDecision_feLast (d : LinkDecision) : (storeDecision d s).feLast = s.feLast := rfl
@[simp] theorem storeDecision_feWord (d : LinkDecision) : (storeDecision d s).feWord = s.feWord := rfl
@[simp] theorem storeDecision_irqFlags (d : LinkDecision) : (storeDecision d s).irqFlags = s.irqFlags := rfl
@[simp] theorem storeDecision_irqEn (d : LinkDecision) : (storeDecision d s).irqEn = s.irqEn := rfl
@[simp] theorem storeDecision_argBright (d : LinkDecision) : (storeDecision d s).argBright = s.argBright := rfl
@[simp] theorem storeDecision_argRed (d : LinkDecision) : (storeDecision d s).argRed = s.argRed := rfl
@[simp] theorem storeDecision_argGreen (d : LinkDecision) : (storeDecision d s).argGreen = s.argGreen := rfl
@[simp] theorem storeDecision_argBlue (d : LinkDecision) : (storeDecision d s).argBlue = s.argBlue := rfl
@[simp] theorem storeDecision_argFirst (d : LinkDecision) : (storeDecision d s).argFirst = s.argFirst := rfl
@[simp] theorem storeDecision_argLast (d : LinkDecision) : (storeDecision d s).argLast = s.argLast := rfl
@[simp] theorem storeDecision_encResult (d : LinkDecision) : (storeDecision d s).encResult = s.encResult := rfl
@[simp] theorem storeDecision_cmdWait (d : LinkDecision) : (storeDecision d s).cmdWait = s.cmdWait := rfl
@[simp] theorem storeDecision_responses (d : LinkDecision) : (storeDecision d s).responses = s.responses := rfl
@[simp] theorem storeDecision_wire (d : LinkDecision) : (storeDecision d s).wire = s.wire := rfl
@[simp] theorem storeDecision_hostQueue (d : LinkDecision) : (storeDecision d s).hostQueue = s.hostQueue := rfl
@[simp] theorem storeDecision_turns (d : LinkDecision) : (storeDecision d s).turns = s.turns := rfl
@[simp] theorem storeDecision_cycles (d : LinkDecision) : (storeDecision d s).cycles = s.cycles := rfl

@[simp] theorem encodeEffect_cfg : (encodeEffect s).cfg = s.cfg := rfl
@[simp] theorem encodeEffect_link : (encodeEffect s).link = s.link := rfl
@[simp] theorem encodeEffect_offsecs : (encodeEffect s).offsecs = s.offsecs := rfl
@[simp] theorem encodeEffect_framecount : (encodeEffect s).framecount = s.framecount := rfl
@[simp] theorem encodeEffect_acc : (encodeEffect s).acc = s.acc := rfl
@[simp] theorem encodeEffect_armed : (encodeEffect s).armed = s.armed := rfl
@[simp] theorem encodeEffect_idle : (encodeEffect s).idle = s.idle := rfl
@[simp] theorem encodeEffect_snap : (encodeEffect s).snap = s.snap := rfl
@[simp] theorem encodeEffect_snapseq : (encodeEffect s).snapseq = s.snapseq := rfl
@[simp] theorem encodeEffect_buf : (encodeEffect s).buf = s.buf := rfl
@[simp] theorem encodeEffect_dirty : (encodeEffect s).dirty = s.dirty := rfl
@[simp] theorem encodeEffect_txBusy : (encodeEffect s).txBusy = s.txBusy := rfl
@[simp] theorem encodeEffect_txIdx : (encodeEffect s).txIdx = s.txIdx := rfl
@[simp] theorem encodeEffect_txBit : (encodeEffect s).txBit = s.txBit := rfl
@[simp] theorem encodeEffect_txWord : (encodeEffect s).txWord = s.txWord := rfl
@[simp] theorem encodeEffect_ledClk : (encodeEffect s).ledClk = s.ledClk := rfl
@[simp] theorem encodeEffect_ledData : (encodeEffect s).ledData = s.ledData := rfl
@[simp] theorem encodeEffect_feBusy : (encodeEffect s).feBusy = s.feBusy := rfl
@[simp] theorem encodeEffect_feIdx : (encodeEffect s).feIdx = s.feIdx := rfl
@[simp] theorem encodeEffect_feLast : (encodeEffect s).feLast = s.feLast := rfl
@[simp] theorem encodeEffect_feWord : (encodeEffect s).feWord = s.feWord := rfl
@[simp] theorem encodeEffect_irqFlags : (encodeEffect s).irqFlags = s.irqFlags := rfl
@[simp] theorem encodeEffect_irqEn : (encodeEffect s).irqEn = s.irqEn := rfl
@[simp] theorem encodeEffect_argBright : (encodeEffect s).argBright = s.argBright := rfl
@[simp] theorem encodeEffect_argRed : (encodeEffect s).argRed = s.argRed := rfl
@[simp] theorem encodeEffect_argGreen : (encodeEffect s).argGreen = s.argGreen := rfl
@[simp] theorem encodeEffect_argBlue : (encodeEffect s).argBlue = s.argBlue := rfl
@[simp] theorem encodeEffect_argFirst : (encodeEffect s).argFirst = s.argFirst := rfl
@[simp] theorem encodeEffect_argLast : (encodeEffect s).argLast = s.argLast := rfl
@[simp] theorem encodeEffect_encResult : (encodeEffect s).encResult = operandPixel s := rfl
@[simp] theorem encodeEffect_cmdWait : (encodeEffect s).cmdWait = s.cmdWait := rfl
@[simp] theorem encodeEffect_responses : (encodeEffect s).responses = s.responses := rfl
@[simp] theorem encodeEffect_wire : (encodeEffect s).wire = s.wire := rfl
@[simp] theorem encodeEffect_hostQueue : (encodeEffect s).hostQueue = s.hostQueue := rfl
@[simp] theorem encodeEffect_turns : (encodeEffect s).turns = s.turns := rfl
@[simp] theorem encodeEffect_cycles : (encodeEffect s).cycles = s.cycles := rfl

@[simp] theorem resetBlock_cfg : (resetBlock s).cfg = s.cfg := rfl
@[simp] theorem resetBlock_link : (resetBlock s).link = .offline := rfl
@[simp] theorem resetBlock_offsecs : (resetBlock s).offsecs = 0 := rfl
@[simp] theorem resetBlock_framecount : (resetBlock s).framecount = 0 := rfl
@[simp] theorem resetBlock_acc : (resetBlock s).acc = [] := rfl
@[simp] theorem resetBlock_armed : (resetBlock s).armed = false := rfl
@[simp] theorem resetBlock_idle : (resetBlock s).idle = 0 := rfl
@[simp] theorem resetBlock_snap : (resetBlock s).snap = List.replicate s.cfg.count 0 := rfl
@[simp] theorem resetBlock_snapseq : (resetBlock s).snapseq = 0 := rfl
@[simp] theorem resetBlock_buf : (resetBlock s).buf = s.cfg.startMarker :: (List.replicate s.cfg.npix blackPixel ++ [s.cfg.endMarker]) := rfl
@[simp] theorem resetBlock_dirty : (resetBlock s).dirty = false := rfl
@[simp] theorem resetBlock_txBusy : (resetBlock s).txBusy = false := rfl
@[simp] theorem resetBlock_txIdx : (resetBlock s).txIdx = 0 := rfl
@[simp] theorem resetBlock_txBit : (resetBlock s).txBit = 31 := rfl
@[simp] theorem resetBlock_txWord : (resetBlock s).txWord = 0 := rfl
@[simp] theorem resetBlock_ledClk : (resetBlock s).ledClk = false := rfl
@[simp] theorem resetBlock_ledData : (resetBlock s).ledData = false := rfl
@[simp] theorem resetBlock_feBusy : (resetBlock s).feBusy = false := rfl
@[simp] theorem resetBlock_feIdx : (resetBlock s).feIdx = 0 := rfl
@[simp] theorem resetBlock_feLast : (resetBlock s).feLast = 0 := rfl
@[simp] theorem resetBlock_feWord : (resetBlock s).feWord = 0 := rfl
@[simp] theorem resetBlock_irqFlags : (resetBlock s).irqFlags = 0 := rfl
@[simp] theorem resetBlock_irqEn : (resetBlock s).irqEn = 0 := rfl
@[simp] theorem resetBlock_argBright : (resetBlock s).argBright = 0 := rfl
@[simp] theorem resetBlock_argRed : (resetBlock s).argRed = 0 := rfl
@[simp] theorem resetBlock_argGreen : (resetBlock s).argGreen = 0 := rfl
@[simp] theorem resetBlock_argBlue : (resetBlock s).argBlue = 0 := rfl
@[simp] theorem resetBlock_argFirst : (resetBlock s).argFirst = 0 := rfl
@[simp] theorem resetBlock_argLast : (resetBlock s).argLast = 0 := rfl
@[simp] theorem resetBlock_encResult : (resetBlock s).encResult = 0 := rfl
@[simp] theorem resetBlock_cmdWait : (resetBlock s).cmdWait = s.cmdWait := rfl
@[simp] theorem resetBlock_responses : (resetBlock s).responses = s.responses := rfl
@[simp] theorem resetBlock_wire : (resetBlock s).wire = s.wire := rfl
@[simp] theorem resetBlock_hostQueue : (resetBlock s).hostQueue = s.hostQueue := rfl
@[simp] theorem resetBlock_turns : (resetBlock s).turns = s.turns := rfl
@[simp] theorem resetBlock_cycles : (resetBlock s).cycles = s.cycles := rfl

@[simp] theorem fillAdvance_cfg : (fillAdvance s).cfg = s.cfg := by unfold fillAdvance; split <;> rfl
@[simp] theorem fillAdvance_link : (fillAdvance s).link = s.link := by unfold fillAdvance; split <;> rfl
@[simp] theorem fillAdvance_offsecs : (fillAdvance s).offsecs = s.offsecs := by unfold fillAdvance; split <;> rfl
@[simp] theorem fillAdvance_framecount : (fillAdvance s).framecount = s.framecount := by unfold fillAdvance; split <;> rfl
@[simp] theorem fillAdvance_acc : (fillAdvance s).acc = s.acc := by unfold fillAdvance; split <;> rfl
@[simp] theorem fillAdvance_armed : (fillAdvance s).armed = s.armed := by unfold fillAdvance; split <;> rfl
@[simp] theorem fillAdvance_idle : (fillAdvance s).idle = s.idle := by unfold fillAdvance; split <;> rfl
@[simp] theorem fillAdvance_snap : (fillAdvance s).snap = s.snap := by unfold fillAdvance; split <;> rfl
@[simp] theorem fillAdvance_snapseq : (fillAdvance s).snapseq = s.snapseq := by unfold fillAdvance; split <;> rfl
@[simp] theorem fillAdvance_buf : (fillAdvance s).buf = s.buf := by unfold fillAdvance; split <;> rfl
@[simp] theorem fillAdvance_txBusy : (fillAdvance s).txBusy = s.txBusy := by unfold fillAdvance; split <;> rfl
@[simp] theorem fillAdvance_txIdx : (fillAdvance s).txIdx = s.txIdx := by unfold fillAdvance; split <;> rfl
@[simp] theorem fillAdvance_txBit : (fillAdvance s).txBit = s.txBit := by unfold fillAdvance; split <;> rfl
@[simp] theorem fillAdvance_txWord : (fillAdvance s).txWord = s.txWord := by unfold fillAdvance; split <;> rfl
@[simp] theorem fillAdvance_ledClk : (fillAdvance s).ledClk = s.ledClk := by unfold fillAdvance; split <;> rfl
@[simp] theorem fillAdvance_ledData : (fillAdvance s).ledData = s.ledData := by unfold fillAdvance; split <;> rfl
@[simp] theorem fillAdvance_feLast : (fillAdvance s).feLast = s.feLast := by unfold fillAdvance; split <;> rfl
@[simp] theorem fillAdvance_feWord : (fillAdvance s).feWord = s.feWord := by unfold fillAdvance; split <;> rfl
@[simp] theorem fillAdvance_irqFlags : (fillAdvance s).irqFlags = s.irqFlags := by unfold fillAdvance; split <;> rfl
@[simp] theorem fillAdvance_irqEn : (fillAdvance s).irqEn = s.irqEn := by unfold fillAdvance; split <;> rfl
@[simp] theorem fillAdvance_argBright : (fillAdvance s).argBright = s.argBright := by unfold fillAdvance; split <;> rfl
@[simp] theorem fillAdvance_argRed : (fillAdvance s).argRed = s.argRed := by unfold fillAdvance; split <;> rfl
@[simp] theorem fillAdvance_argGreen : (fillAdvance s).argGreen = s.argGreen := by unfold fillAdvance; split <;> rfl
@[simp] theorem fillAdvance_argBlue : (fillAdvance s).argBlue = s.argBlue := by unfold fillAdvance; split <;> rfl
@[simp] theorem fillAdvance_argFirst : (fillAdvance s).argFirst = s.argFirst := by unfold fillAdvance; split <;> rfl
@[simp] theorem fillAdvance_argLast : (fillAdvance s).argLast = s.argLast := by unfold fillAdvance; split <;> rfl
@[simp] theorem fillAdvance_encResult : (fillAdvance s).encResult = s.encResult := by unfold fillAdvance; split <;> rfl
@[simp] theorem fillAdvance_cmdWait : (fillAdvance s).cmdWait = s.cmdWait := by unfold fillAdvance; split <;> rfl
@[simp] theorem fillAdvance_responses : (fillAdvance s).responses = s.responses := by unfold fillAdvance; split <;> rfl
@[simp] theorem fillAdvance_wire : (fillAdvance s).wire = s.wire := by unfold fillAdvance; split <;> rfl
@[simp] theorem fillAdvance_hostQueue : (fillAdvance s).hostQueue = s.hostQueue := by unfold fillAdvance; split <;> rfl
@[simp] theorem fillAdvance_turns : (fillAdvance s).turns = s.turns := by unfold fillAdvance; split <;> rfl
@[simp] theorem fillAdvance_cycles : (fillAdvance s).cycles = s.cycles := by unfold fillAdvance; split <;> rfl

@[simp] theorem txAdvance_cfg : (txAdvance s).cfg = s.cfg := by unfold txAdvance; split <;> rfl
@[simp] theorem txAdvance_link : (txAdvance s).link = s.link := by unfold txAdvance; split <;> rfl
@[simp] theorem txAdvance_offsecs : (txAdvance s).offsecs = s.offsecs := by unfold txAdvance; split <;> rfl
@[simp] theorem txAdvance_framecount : (txAdvance s).framecount = s.framecount := by unfold txAdvance; split <;> rfl
@[simp] theorem txAdvance_acc : (txAdvance s).acc = s.acc := by unfold txAdvance; split <;> rfl
@[simp] theorem txAdvance_armed : (txAdvance s).armed = s.armed := by unfold txAdvance; split <;> rfl
@[simp] theorem txAdvance_idle : (txAdvance s).idle = s.idle := by unfold txAdvance; split <;> rfl
@[simp] theorem txAdvance_snap : (txAdvance s).snap = s.snap := by unfold txAdvance; split <;> rfl
@[simp] theorem txAdvance_snapseq : (txAdvance s).snapseq = s.snapseq := by unfold txAdvance; split <;> rfl
@[simp] theorem txAdvance_buf : (txAdvance s).buf = s.buf := by unfold txAdvance; split <;> rfl
@[simp] theorem txAdvance_dirty : (txAdvance s).dirty = s.dirty := by unfold txAdvance; split <;> rfl
@[simp] theorem txAdvance_txBusy : (txAdvance s).txBusy = s.txBusy := by unfold txAdvance; split <;> rfl
@[simp] theorem txAdvance_txWord : (txAdvance s).txWord = s.txWord := by unfold txAdvance; split <;> rfl
@[simp] theorem txAdvance_ledClk : (txAdvance s).ledClk = s.ledClk := by unfold txAdvance; split <;> rfl
@[simp] theorem txAdvance_ledData : (txAdvance s).ledData = s.ledData := by unfold txAdvance; split <;> rfl
@[simp] theorem txAdvance_feBusy : (txAdvance s).feBusy = s.feBusy := by unfold txAdvance; split <;> rfl
@[simp] theorem txAdvance_feIdx : (txAdvance s).feIdx = s.feIdx := by unfold txAdvance; split <;> rfl
@[simp] theorem txAdvance_feLast : (txAdvance s).feLast = s.feLast := by unfold txAdvance; split <;> rfl
@[simp] theorem txAdvance_feWord : (txAdvance s).feWord = s.feWord := by unfold txAdvance; split <;> rfl
@[simp] theorem txAdvance_irqFlags : (txAdvance s).irqFlags = s.irqFlags := by unfold txAdvance; split <;> rfl
@[simp] theorem txAdvance_irqEn : (txAdvance s).irqEn = s.irqEn := by unfold txAdvance; split <;> rfl
@[simp] theorem txAdvance_argBright : (txAdvance s).argBright = s.argBright := by unfold txAdvance; split <;> rfl
@[simp] theorem txAdvance_argRed : (txAdvance s).argRed = s.argRed := by unfold txAdvance; split <;> rfl
@[simp] theorem txAdvance_argGreen : (txAdvance s).argGreen = s.argGreen := by unfold txAdvance; split <;> rfl
@[simp] theorem txAdvance_argBlue : (txAdvance s).argBlue = s.argBlue := by unfold txAdvance; split <;> rfl
@[simp] theorem txAdvance_argFirst : (txAdvance s).argFirst = s.argFirst := by unfold txAdvance; split <;> rfl
@[simp] theorem txAdvance_argLast : (txAdvance s).argLast = s.argLast := by unfold txAdvance; split <;> rfl
@[simp] theorem txAdvance_encResult : (txAdvance s).encResult = s.encResult := by unfold txAdvance; split <;> rfl
@[simp] theorem txAdvance_cmdWait : (txAdvance s).cmdWait = s.cmdWait := by unfold txAdvance; split <;> rfl
@[simp] theorem txAdvance_responses : (txAdvance s).responses = s.responses := by unfold txAdvance; split <;> rfl
@[simp] theorem txAdvance_wire : (txAdvance s).wire = s.wire := by unfold txAdvance; split <;> rfl
@[simp] theorem txAdvance_hostQueue : (txAdvance s).hostQueue = s.hostQueue := by unfold txAdvance; split <;> rfl
@[simp] theorem txAdvance_turns : (txAdvance s).turns = s.turns := by unfold txAdvance; split <;> rfl
@[simp] theorem txAdvance_cycles : (txAdvance s).cycles = s.cycles := by unfold txAdvance; split <;> rfl

@[simp] theorem evaluate_cfg : (evaluate s).cfg = s.cfg := by unfold evaluate; split <;> rfl
@[simp] theorem evaluate_link : (evaluate s).link = s.link := by unfold evaluate; split <;> rfl
@[simp] theorem evaluate_offsecs : (evaluate s).offsecs = s.offsecs := by unfold evaluate; split <;> rfl
@[simp] theorem evaluate_idle : (evaluate s).idle = s.idle := by unfold evaluate; split <;> rfl
@[simp] theorem evaluate_buf : (evaluate s).buf = s.buf := by unfold evaluate; split <;> rfl
@[simp] theorem evaluate_dirty : (evaluate s).dirty = s.dirty := by unfold evaluate; split <;> rfl
@[simp] theorem evaluate_txBusy : (evaluate s).txBusy = s.txBusy := by unfold evaluate; split <;> rfl
@[simp] theorem evaluate_txIdx : (evaluate s).txIdx = s.txIdx := by unfold evaluate; split <;> rfl
@[simp] theorem evaluate_txBit : (evaluate s).txBit = s.txBit := by unfold evaluate; split <;> rfl
@[simp] theorem evaluate_txWord : (evaluate s).txWord = s.txWord := by unfold evaluate; split <;> rfl
@[simp] theorem evaluate_ledClk : (evaluate s).ledClk = s.ledClk := by unfold evaluate; split <;> rfl
@[simp] theorem evaluate_ledData : (evaluate s).ledData = s.ledData := by unfold evaluate; split <;> rfl
@[simp] theorem evaluate_feBusy : (evaluate s).feBusy = s.feBusy := by unfold evaluate; split <;> rfl
@[simp] theorem evaluate_feIdx : (evaluate s).feIdx = s.feIdx := by unfold evaluate; split <;> rfl
@[simp] theorem evaluate_feLast : (evaluate s).feLast = s.feLast := by unfold evaluate; split <;> rfl
@[simp] theorem evaluate_feWord : (evaluate s).feWord = s.feWord := by unfold evaluate; split <;> rfl
@[simp] theorem evaluate_irqEn : (evaluate s).irqEn = s.irqEn := by unfold evaluate; split <;> rfl
@[simp] theorem evaluate_argBright : (evaluate s).argBright = s.argBright := by unfold evaluate; split <;> rfl
@[simp] theorem evaluate_argRed : (evaluate s).argRed = s.argRed := by unfold evaluate; split <;> rfl
@[simp] theorem evaluate_argGreen : (evaluate s).argGreen = s.argGreen := by unfold evaluate; split <;> rfl
@[simp] theorem evaluate_argBlue : (evaluate s).argBlue = s.argBlue := by unfold evaluate; split <;> rfl
@[simp] theorem evaluate_argFirst : (evaluate s).argFirst = s.argFirst := by unfold evaluate; split <;> rfl
@[simp] theorem evaluate_argLast : (evaluate s).argLast = s.argLast := by unfold evaluate; split <;> rfl
@[simp] theorem evaluate_encResult : (evaluate s).encResult = s.encResult := by unfold evaluate; split <;> rfl
@[simp] theorem evaluate_cmdWait : (evaluate s).cmdWait = s.cmdWait := by unfold evaluate; split <;> rfl
@[simp] theorem evaluate_responses : (evaluate s).responses = s.responses := by unfold evaluate; split <;> rfl
@[simp] theorem evaluate_wire : (evaluate s).wire = s.wire := by unfold evaluate; split <;> rfl
@[simp] theorem evaluate_hostQueue : (evaluate s).hostQueue = s.hostQueue := by unfold evaluate; split <;> rfl
@[simp] theorem evaluate_turns : (evaluate s).turns = s.turns := by unfold evaluate; split <;> rfl
@[simp] theorem evaluate_cycles : (evaluate s).cycles = s.cycles := by unfold evaluate; split <;> rfl

@[simp] theorem fillEffect_cfg : (fillEffect s).cfg = s.cfg := by unfold fillEffect; split <;> rfl
@[simp] theorem fillEffect_link : (fillEffect s).link = s.link := by unfold fillEffect; split <;> rfl
@[simp] theorem fillEffect_offsecs : (fillEffect s).offsecs = s.offsecs := by unfold fillEffect; split <;> rfl
@[simp] theorem fillEffect_framecount : (fillEffect s).framecount = s.framecount := by unfold fillEffect; split <;> rfl
@[simp] theorem fillEffect_acc : (fillEffect s).acc = s.acc := by unfold fillEffect; split <;> rfl
@[simp] theorem fillEffect_armed : (fillEffect s).armed = s.armed := by unfold fillEffect; split <;> rfl
@[simp] theorem fillEffect_idle : (fillEffect s).idle = s.idle := by unfold fillEffect; split <;> rfl
@[simp] theorem fillEffect_snap : (fillEffect s).snap = s.snap := by unfold fillEffect; split <;> rfl
@[simp] theorem fillEffect_snapseq : (fillEffect s).snapseq = s.snapseq := by unfold fillEffect; split <;> rfl
@[simp] theorem fillEffect_buf : (fillEffect s).buf = s.buf := by unfold fillEffect; split <;> rfl
@[simp] theorem fillEffect_txBusy : (fillEffect s).txBusy = s.txBusy := by unfold fillEffect; split <;> rfl
@[simp] theorem fillEffect_txIdx : (fillEffect s).txIdx = s.txIdx := by unfold fillEffect; split <;> rfl
@[simp] theorem fillEffect_txBit : (fillEffect s).txBit = s.txBit := by unfold fillEffect; split <;> rfl
@[simp] theorem fillEffect_txWord : (fillEffect s).txWord = s.txWord := by unfold fillEffect; split <;> rfl
@[simp] theorem fillEffect_ledClk : (fillEffect s).ledClk = s.ledClk := by unfold fillEffect; split <;> rfl
@[simp] theorem fillEffect_ledData : (fillEffect s).ledData = s.ledData := by unfold fillEffect; split <;> rfl
@[simp] theorem fillEffect_irqFlags : (fillEffect s).irqFlags = s.irqFlags := by unfold fillEffect; split <;> rfl
@[simp] theorem fillEffect_irqEn : (fillEffect s).irqEn = s.irqEn := by unfold fillEffect; split <;> rfl
@[simp] theorem fillEffect_argBright : (fillEffect s).argBright = s.argBright := by unfold fillEffect; split <;> rfl
@[simp] theorem fillEffect_argRed : (fillEffect s).argRed = s.argRed := by unfold fillEffect; split <;> rfl
@[simp] theorem fillEffect_argGreen : (fillEffect s).argGreen = s.argGreen := by unfold fillEffect; split <;> rfl
@[simp] theorem fillEffect_argBlue : (fillEffect s).argBlue = s.argBlue := by unfold fillEffect; split <;> rfl
@[simp] theorem fillEffect_argFirst : (fillEffect s).argFirst = s.argFirst := by unfold fillEffect; split <;> rfl
@[simp] theorem fillEffect_argLast : (fillEffect s).argLast = s.argLast := by unfold fillEffect; split <;> rfl
@[simp] theorem fillEffect_encResult : (fillEffect s).encResult = s.encResult := by unfold fillEffect; split <;> rfl
@[simp] theorem fillEffect_cmdWait : (fillEffect s).cmdWait = s.cmdWait := by unfold fillEffect; split <;> rfl
@[simp] theorem fillEffect_responses : (fillEffect s).responses = s.responses := by unfold fillEffect; split <;> rfl
@[simp] theorem fillEffect_wire : (fillEffect s).wire = s.wire := by unfold fillEffect; split <;> rfl
@[simp] theorem fillEffect_hostQueue : (fillEffect s).hostQueue = s.hostQueue := by unfold fillEffect; split <;> rfl
@[simp] theorem fillEffect_turns : (fillEffect s).turns = s.turns := by unfold fillEffect; split <;> rfl
@[simp] theorem fillEffect_cycles : (fillEffect s).cycles = s.cycles := by unfold fillEffect; split <;> rfl

@[simp] theorem clockEdge_cfg : (clockEdge s).cfg = s.cfg := by unfold clockEdge; split <;> rfl
@[simp] theorem clockEdge_link : (clockEdge s).link = s.link := by unfold clockEdge; split <;> rfl
@[simp] theorem clockEdge_offsecs : (clockEdge s).offsecs = s.offsecs := by unfold clockEdge; split <;> rfl
@[simp] theorem clockEdge_framecount : (clockEdge s).framecount = s.framecount := by unfold clockEdge; split <;> rfl
@[simp] theorem clockEdge_acc : (clockEdge s).acc = s.acc := by unfold clockEdge; split <;> rfl
@[simp] theorem clockEdge_armed : (clockEdge s).armed = s.armed := by unfold clockEdge; split <;> rfl
@[simp] theorem clockEdge_idle : (clockEdge s).idle = s.idle := by unfold clockEdge; split <;> rfl
@[simp] theorem clockEdge_snap : (clockEdge s).snap = s.snap := by unfold clockEdge; split <;> rfl
@[simp] theorem clockEdge_snapseq : (clockEdge s).snapseq = s.snapseq := by unfold clockEdge; split <;> rfl
@[simp] theorem clockEdge_buf : (clockEdge s).buf = s.buf := by unfold clockEdge; split <;> rfl
@[simp] theorem clockEdge_dirty : (clockEdge s).dirty = s.dirty := by unfold clockEdge; split <;> rfl
@[simp] theorem clockEdge_txBusy : (clockEdge s).txBusy = s.txBusy := by unfold clockEdge; split <;> rfl
@[simp] theorem clockEdge_txIdx : (clockEdge s).txIdx = s.txIdx := by unfold clockEdge; split <;> rfl
@[simp] theorem clockEdge_txBit : (clockEdge s).txBit = s.txBit := by unfold clockEdge; split <;> rfl
@[simp] theorem clockEdge_txWord : (clockEdge s).txWord = s.txWord := by unfold clockEdge; split <;> rfl
@[simp] theorem clockEdge_ledClk : (clockEdge s).ledClk = s.ledClk := by unfold clockEdge; split <;> rfl
@[simp] theorem clockEdge_ledData : (clockEdge s).ledData = s.ledData := by unfold clockEdge; split <;> rfl
@[simp] theorem clockEdge_feBusy : (clockEdge s).feBusy = s.feBusy := by unfold clockEdge; split <;> rfl
@[simp] theorem clockEdge_feIdx : (clockEdge s).feIdx = s.feIdx := by unfold clockEdge; split <;> rfl
@[simp] theorem clockEdge_feLast : (clockEdge s).feLast = s.feLast := by unfold clockEdge; split <;> rfl
@[simp] theorem clockEdge_feWord : (clockEdge s).feWord = s.feWord := by unfold clockEdge; split <;> rfl
@[simp] theorem clockEdge_irqFlags : (clockEdge s).irqFlags = s.irqFlags := by unfold clockEdge; split <;> rfl
@[simp] theorem clockEdge_irqEn : (clockEdge s).irqEn = s.irqEn := by unfold clockEdge; split <;> rfl
@[simp] theorem clockEdge_argBright : (clockEdge s).argBright = s.argBright := by unfold clockEdge; split <;> rfl
@[simp] theorem clockEdge_argRed : (clockEdge s).argRed = s.argRed := by unfold clockEdge; split <;> rfl
@[simp] theorem clockEdge_argGreen : (clockEdge s).argGreen = s.argGreen := by unfold clockEdge; split <;> rfl
@[simp] theorem clockEdge_argBlue : (clockEdge s).argBlue = s.argBlue := by unfold clockEdge; split <;> rfl
@[simp] theorem clockEdge_argFirst : (clockEdge s).argFirst = s.argFirst := by unfold clockEdge; split <;> rfl
@[simp] theorem clockEdge_argLast : (clockEdge s).argLast = s.argLast := by unfold clockEdge; split <;> rfl
@[simp] theorem clockEdge_encResult : (clockEdge s).encResult = s.encResult := by unfold clockEdge; split <;> rfl
@[simp] theorem clockEdge_cmdWait : (clockEdge s).cmdWait = s.cmdWait := by unfold clockEdge; split <;> rfl
@[simp] theorem clockEdge_responses : (clockEdge s).responses = s.responses := by unfold clockEdge; split <;> rfl
@[simp] theorem clockEdge_wire : (clockEdge s).wire = s.wire := by unfold clockEdge; split <;> rfl
@[simp] theorem clockEdge_hostQueue : (clockEdge s).hostQueue = s.hostQueue := by unfold clockEdge; split <;> rfl

end Sys2Proof.Machine
end

