-- ==== Sys2Proof/Laws/Ops.lean ====
section
/-! SUPPORT. What each shared operation and each meaning with cases can do, said once: if it answers
next t, then one of these cases holds. -/
namespace Sys2Proof.Machine

variable {s t u : State}

theorem orAbsent_next {α : Type} {o : Option α} {k : α → Host.Outcome State Fault Refusal}
    (h : orAbsent o k = .next t) : ∃ a, o = some a ∧ k a = .next t := by
  cases o with
  | some a => exact ⟨a, rfl, h⟩
  | none => cases h

/-- A write of the buffer happens inside it, and changes that one word. -/
theorem writeBuf_eq_some {i : Nat} {w : Word} :
    writeBuf i w s = some t ↔ i < s.buf.length ∧ t = { s with buf := s.buf.set i w } := by
  unfold writeBuf
  split <;> simp_all [eq_comm]

/-- Read after write. -/
theorem readBuf_writeBuf {i : Nat} {w : Word} (h : writeBuf i w s = some t) (j : Nat) :
    readBuf j t = if j = i then some w else readBuf j s := by
  obtain ⟨hi, rfl⟩ := writeBuf_eq_some.mp h
  simp only [readBuf, List.getElem?_set]
  by_cases hj : j = i
  · simp [hj, hi]
  · simp [hj, Ne.symm hj]

/-- A CMD write waits, or acts and is acknowledged. -/
theorem cmdWrite_next {v : Word} {e : State → State} (h : cmdWrite v e s = .next t) :
    (s.feBusy = true ∧ t = { s with cmdWait := some v }) ∨
      (s.feBusy = false ∧ t = respond .ack (e s)) := by
  unfold cmdWrite acknowledge at h
  split at h <;> cases h <;> simp_all

/-- The four commands and the reserved words, as one CMD write each. -/
def cmdEffect : Cmd → State → State
  | .nop => id
  | .fill => fillEffect
  | .clear => clearEffect
  | .encode => encodeEffect
  | .reservedOp _ => setFlag .cmderr
  | .reservedRsv _ _ => setFlag .cmderr

/-- A command word is put together from the fields it decodes to. -/
theorem decodeCmd_cases (v : Word) :
    (v = 0x00000000#32 ∧ decodeCmd v = .nop) ∨ (v = 0x00000001#32 ∧ decodeCmd v = .fill) ∨
    (v = 0x00000002#32 ∧ decodeCmd v = .clear) ∨ (v = 0x00000003#32 ∧ decodeCmd v = .encode) ∨
    (∃ o : BitVec 4, 4 ≤ o.toNat ∧ v = 0#28 ++ o ∧ decodeCmd v = .reservedOp o) ∨
    (∃ r x, r ≠ 0 ∧ v = r ++ x ∧ decodeCmd v = .reservedRsv r x) := by
  have hv := word_eq_append v
  unfold decodeCmd
  generalize v.extractLsb' 4 28 = r at *
  generalize v.extractLsb' 0 4 = x at *
  by_cases hr : r = 0#28
  · subst hr
    by_cases h0 : x = 0#4
    · subst h0; exact .inl ⟨by rw [hv]; rfl, rfl⟩
    by_cases h1 : x = 1#4
    · subst h1; exact .inr (.inl ⟨by rw [hv]; rfl, rfl⟩)
    by_cases h2 : x = 2#4
    · subst h2; exact .inr (.inr (.inl ⟨by rw [hv]; rfl, rfl⟩))
    by_cases h3 : x = 3#4
    · subst h3; exact .inr (.inr (.inr (.inl ⟨by rw [hv]; rfl, rfl⟩)))
    have : 4 ≤ x.toNat := by
      rcases Nat.lt_or_ge x.toNat 4 with h | h
      · have : x = 0#4 ∨ x = 1#4 ∨ x = 2#4 ∨ x = 3#4 := by bv_omega
        simp_all
      · exact h
    exact .inr (.inr (.inr (.inr (.inl ⟨x, this, hv, by simp [h0, h1, h2, h3]⟩))))
  · exact .inr (.inr (.inr (.inr (.inr ⟨r, x, hr, hv, if_pos hr⟩))))

/-- WR CMD is one CMD write of the effect its word encodes. -/
theorem execWrCmd_eq (v : Word) (s : State) :
    execWrCmd v s = cmdWrite v (cmdEffect (decodeCmd v)) s := by
  unfold execWrCmd
  rcases decodeCmd_cases v with ⟨rfl, h⟩ | ⟨rfl, h⟩ | ⟨rfl, h⟩ | ⟨rfl, h⟩ | ⟨o, -, rfl, h⟩ |
    ⟨r, x, -, rfl, h⟩ <;> rw [h] <;> rfl

theorem execRdSnap_next {i : BitVec 10} (h : execRdSnap i s = .next t) :
    ∃ r, t = respond r s := by
  unfold execRdSnap answer at h
  split at h
  · obtain ⟨b, -, hb⟩ := orAbsent_next h
    cases hb; exact ⟨_, rfl⟩
  · cases h; exact ⟨_, rfl⟩

theorem execRdPixbuf_next {i : BitVec 12} (h : execRdPixbuf i s = .next t) :
    ∃ r, t = respond r s := by
  unfold execRdPixbuf answer at h
  split at h
  · obtain ⟨b, -, hb⟩ := orAbsent_next h
    cases hb; exact ⟨_, rfl⟩
  · cases h; exact ⟨_, rfl⟩

/-- RX_BYTE appends, or appends and discards. -/
theorem execRxByte_next {b : Byte} (h : execRxByte b s = .next t) :
    (s.acc.length < accMax ∧ t = appendByte b s) ∨
      (accMax ≤ s.acc.length ∧ t = discardAcc (appendByte b s)) := by
  unfold execRxByte at h
  simp only [appendByte_acc, List.length_append, List.length_cons, List.length_nil, zero_add] at h
  split at h <;> cases h
  · exact .inr ⟨by omega, rfl⟩
  · exact .inl ⟨by omega, rfl⟩

/-- TB_TICK counts; past the threshold it also drops the frame, or latches and drops it. -/
theorem execTbTick_next (h : execTbTick s = .next t) :
    t = countTick s ∨
    (s.armed = true ∧ frameValid s.cfg s.acc = false ∧ t = consumeAcc (countTick s)) ∨
    (s.armed = true ∧ frameValid s.cfg s.acc = true ∧ t = consumeAcc (latch (countTick s))) := by
  unfold execTbTick evaluate at h
  simp only [countTick_cfg, countTick_acc] at h
  split at h
  · rename_i ha
    simp only [Bool.and_eq_true] at ha
    injection h with h
    subst h
    by_cases hv : frameValid s.cfg s.acc = true
    · exact .inr (.inr ⟨ha.1, hv, if_pos hv⟩)
    · exact .inr (.inl ⟨ha.1, by simpa using hv, if_neg hv⟩)
  · cases h; exact .inl rfl

/-- SEC_TICK stores its decision, with LINKCHG where it is a transition. -/
theorem execSecTick_next (h : execSecTick s = .next t) :
    t = storeDecision (linkDecision s) s ∨
      t = setFlag .linkchg (storeDecision (linkDecision s) s) := by
  unfold execSecTick at h
  split at h <;> cases h
  · exact .inr rfl
  · exact .inl rfl

/-- FILL_STEP writes one word of its range and goes on, or there is no fill. -/
theorem execFillStep_next (h : execFillStep s = .next t) :
    (s.feBusy = false ∧ t = s) ∨
    (s.feBusy = true ∧ 1 ≤ s.feIdx ∧ s.feIdx ≤ s.feLast ∧ s.feLast ≤ s.cfg.npix ∧
      s.feIdx < s.buf.length ∧ t = fillAdvance { s with buf := s.buf.set s.feIdx s.feWord }) := by
  unfold execFillStep at h
  split at h
  · split at h
    · rename_i hb hr
      obtain ⟨u, hu, ht⟩ := orAbsent_next h
      obtain ⟨hl, rfl⟩ := writeBuf_eq_some.mp hu
      cases ht
      exact .inr ⟨hb, hr.1, hr.2.1, hr.2.2, hl, rfl⟩
    · cases h
  · cases h; simp_all

/-- The buffer with both markers written. -/
def withMarkers (s : State) : State :=
  { s with buf := (s.buf.set 0 s.cfg.startMarker).set (s.cfg.npix + 1) s.cfg.endMarker }

/-- TX_START writes the markers and begins, or is not enabled. -/
theorem execTxStart_next (h : execTxStart s = .next t) :
    ((s.txBusy = true ∨ s.dirty = false) ∧ t = s) ∨
    (s.txBusy = false ∧ s.dirty = true ∧ s.cfg.npix + 1 < s.buf.length ∧
      t = txBegin (withMarkers s)) := by
  unfold execTxStart at h
  split at h
  · rename_i hg
    obtain ⟨u, hu, h⟩ := orAbsent_next h
    obtain ⟨-, rfl⟩ := writeBuf_eq_some.mp hu
    obtain ⟨v, hv, h⟩ := orAbsent_next h
    obtain ⟨hl, rfl⟩ := writeBuf_eq_some.mp hv
    cases h
    exact .inr ⟨hg.1, hg.2, by simpa using hl, rfl⟩
  · rename_i hg
    cases h
    refine .inl ⟨?_, rfl⟩
    by_cases hb : s.txBusy = true
    · exact .inl hb
    · exact .inr (by simp_all)

/-- TX_BIT sends one bit of the current word, or is not enabled. -/
theorem execTxBit_next (h : execTxBit s = .next t) :
    ((s.txBusy = false ∨ s.cfg.npix + 1 < s.txIdx) ∧ t = s) ∨
    (s.txBusy = true ∧ s.txIdx ≤ s.cfg.npix + 1 ∧ ∃ w, txCurrent s = some w ∧
      t = txAdvance (emit (w.getLsbD s.txBit.val) { s with txWord := w })) := by
  unfold execTxBit at h
  split at h
  · rename_i hg
    obtain ⟨w, hw, h⟩ := orAbsent_next h
    cases h
    exact .inr ⟨hg.1, hg.2, w, hw, rfl⟩
  · rename_i hg
    cases h
    refine .inl ⟨?_, rfl⟩
    by_cases hb : s.txBusy = true
    · exact .inr (by simp_all)
    · exact .inl (by simp_all)

theorem execTxEnd_next (h : execTxEnd s = .next t) :
    ((s.txBusy = false ∨ s.txIdx ≠ s.cfg.npix + 2) ∧ t = s) ∨
    (s.txBusy = true ∧ s.txIdx = s.cfg.npix + 2 ∧ t = { txRest s with dirty := false }) := by
  unfold execTxEnd at h
  split at h
  · rename_i hg; cases h; exact .inr ⟨hg.1, hg.2, rfl⟩
  · rename_i hg
    cases h
    refine .inl ⟨?_, rfl⟩
    by_cases hb : s.txBusy = true
    · exact .inr (by simp_all)
    · exact .inl (by simp_all)

theorem execTxFault_next (h : execTxFault s = .next t) :
    (s.txBusy = false ∧ t = s) ∨ (s.txBusy = true ∧ t = setFlag .txerr (txAbort s)) := by
  unfold execTxFault at h
  split at h <;> cases h <;> simp_all

theorem execReset_next (h : execReset s = .next t) :
    t = resetBlock s ∨ t = resetBlock (txAbort s) := by
  unfold execReset at h
  split at h <;> cases h <;> simp

/-- RESET gives the block its reset state, whatever stood before. -/
theorem resetBlock_eq (s : State) : resetBlock s = (State.resetOf s.cfg).surroundings s := rfl

/-- A step is a clock edge, or the turn at the head of the cycle. -/
theorem step_next (h : step s = .next t) :
    s.cfg.legal ∧ ((s.turns = [] ∧ t = clockEdge s) ∨
      ∃ x xs, s.turns = x :: xs ∧ runTurn x { s with turns := xs } = .next t) := by
  unfold step at h
  split at h
  · rename_i hl
    refine ⟨hl, ?_⟩
    split at h
    · rename_i ht; cases h; exact .inl ⟨ht, rfl⟩
    · rename_i x xs ht; exact .inr ⟨x, xs, ht, h⟩
  · cases h

/-- The state an instruction is fetched on differs from the turn's in the host's side alone. -/
abbrev sameBlock (s t : State) : Prop :=
  t = { s with cmdWait := t.cmdWait, hostQueue := t.hostQueue }

theorem fetchHost_frame (go : Bool) (s : State) :
    (∃ i u, fetchHost go s = .run i u ∧ sameBlock s u) ∨
    (∃ u, fetchHost go s = .refuse u ∧ sameBlock s u) ∨ fetchHost go s = .pass s := by
  unfold fetchHost
  split
  · split
    · exact .inr (.inr rfl)
    · exact .inl ⟨_, _, rfl, rfl⟩
  · split
    · split
      · unfold fetchOp
        split
        · exact .inl ⟨_, _, rfl, rfl⟩
        · exact .inr (.inl ⟨_, rfl, rfl⟩)
      · exact .inr (.inr rfl)
    · exact .inr (.inr rfl)

/-- What a turn amounts to, and on which state. -/
theorem fetch_frame (x : Turn) (s : State) :
    (∃ i u, fetch x s = .run i u ∧ sameBlock s u) ∨
    (∃ u, fetch x s = .refuse u ∧ sameBlock s u) ∨ fetch x s = .pass s := by
  cases x with
  | host go => exact fetchHost_frame go s
  | event e => exact .inl ⟨_, _, rfl, rfl⟩
  | led fault go =>
    simp only [fetch]
    split
    · exact .inl ⟨_, _, rfl, rfl⟩
    · split
      · cases txEnabled s with
        | some i => exact .inl ⟨i, s, rfl, rfl⟩
        | none => exact .inr (.inr rfl)
      · exact .inr (.inr rfl)
  | fill go =>
    simp only [fetch]
    split
    · exact .inl ⟨_, _, rfl, rfl⟩
    · exact .inr (.inr rfl)

end Sys2Proof.Machine
end

