-- ==== Sys2Proof/Laws/Frames.lean ====
section
/-! SUPPORT. Each field under the two updates that Laws/Ops.lean names: writing the markers, and the
effect of a command. -/
namespace Sys2Proof.Machine

variable (s : State)

@[simp] theorem withMarkers_cfg : (withMarkers s).cfg = s.cfg := rfl
@[simp] theorem withMarkers_link : (withMarkers s).link = s.link := rfl
@[simp] theorem withMarkers_offsecs : (withMarkers s).offsecs = s.offsecs := rfl
@[simp] theorem withMarkers_framecount : (withMarkers s).framecount = s.framecount := rfl
@[simp] theorem withMarkers_acc : (withMarkers s).acc = s.acc := rfl
@[simp] theorem withMarkers_armed : (withMarkers s).armed = s.armed := rfl
@[simp] theorem withMarkers_idle : (withMarkers s).idle = s.idle := rfl
@[simp] theorem withMarkers_snap : (withMarkers s).snap = s.snap := rfl
@[simp] theorem withMarkers_snapseq : (withMarkers s).snapseq = s.snapseq := rfl
@[simp] theorem withMarkers_dirty : (withMarkers s).dirty = s.dirty := rfl
@[simp] theorem withMarkers_txBusy : (withMarkers s).txBusy = s.txBusy := rfl
@[simp] theorem withMarkers_txIdx : (withMarkers s).txIdx = s.txIdx := rfl
@[simp] theorem withMarkers_txBit : (withMarkers s).txBit = s.txBit := rfl
@[simp] theorem withMarkers_txWord : (withMarkers s).txWord = s.txWord := rfl
@[simp] theorem withMarkers_ledClk : (withMarkers s).ledClk = s.ledClk := rfl
@[simp] theorem withMarkers_ledData : (withMarkers s).ledData = s.ledData := rfl
@[simp] theorem withMarkers_feBusy : (withMarkers s).feBusy = s.feBusy := rfl
@[simp] theorem withMarkers_feIdx : (withMarkers s).feIdx = s.feIdx := rfl
@[simp] theorem withMarkers_feLast : (withMarkers s).feLast = s.feLast := rfl
@[simp] theorem withMarkers_feWord : (withMarkers s).feWord = s.feWord := rfl
@[simp] theorem withMarkers_irqFlags : (withMarkers s).irqFlags = s.irqFlags := rfl
@[simp] theorem withMarkers_irqEn : (withMarkers s).irqEn = s.irqEn := rfl
@[simp] theorem withMarkers_argBright : (withMarkers s).argBright = s.argBright := rfl
@[simp] theorem withMarkers_argRed : (withMarkers s).argRed = s.argRed := rfl
@[simp] theorem withMarkers_argGreen : (withMarkers s).argGreen = s.argGreen := rfl
@[simp] theorem withMarkers_argBlue : (withMarkers s).argBlue = s.argBlue := rfl
@[simp] theorem withMarkers_argFirst : (withMarkers s).argFirst = s.argFirst := rfl
@[simp] theorem withMarkers_argLast : (withMarkers s).argLast = s.argLast := rfl
@[simp] theorem withMarkers_encResult : (withMarkers s).encResult = s.encResult := rfl
@[simp] theorem withMarkers_cmdWait : (withMarkers s).cmdWait = s.cmdWait := rfl
@[simp] theorem withMarkers_responses : (withMarkers s).responses = s.responses := rfl
@[simp] theorem withMarkers_wire : (withMarkers s).wire = s.wire := rfl
@[simp] theorem withMarkers_hostQueue : (withMarkers s).hostQueue = s.hostQueue := rfl
@[simp] theorem withMarkers_turns : (withMarkers s).turns = s.turns := rfl
@[simp] theorem withMarkers_cycles : (withMarkers s).cycles = s.cycles := rfl

@[simp] theorem cmdEffect_cfg (c : Cmd) : (cmdEffect c s).cfg = s.cfg := by
  cases c <;> simp [cmdEffect, clearEffect]
@[simp] theorem cmdEffect_link (c : Cmd) : (cmdEffect c s).link = s.link := by
  cases c <;> simp [cmdEffect, clearEffect]
@[simp] theorem cmdEffect_offsecs (c : Cmd) : (cmdEffect c s).offsecs = s.offsecs := by
  cases c <;> simp [cmdEffect, clearEffect]
@[simp] theorem cmdEffect_framecount (c : Cmd) : (cmdEffect c s).framecount = s.framecount := by
  cases c <;> simp [cmdEffect, clearEffect]
@[simp] theorem cmdEffect_acc (c : Cmd) : (cmdEffect c s).acc = s.acc := by
  cases c <;> simp [cmdEffect, clearEffect]
@[simp] theorem cmdEffect_armed (c : Cmd) : (cmdEffect c s).armed = s.armed := by
  cases c <;> simp [cmdEffect, clearEffect]
@[simp] theorem cmdEffect_idle (c : Cmd) : (cmdEffect c s).idle = s.idle := by
  cases c <;> simp [cmdEffect, clearEffect]
@[simp] theorem cmdEffect_snap (c : Cmd) : (cmdEffect c s).snap = s.snap := by
  cases c <;> simp [cmdEffect, clearEffect]
@[simp] theorem cmdEffect_snapseq (c : Cmd) : (cmdEffect c s).snapseq = s.snapseq := by
  cases c <;> simp [cmdEffect, clearEffect]
@[simp] theorem cmdEffect_buf (c : Cmd) : (cmdEffect c s).buf = s.buf := by
  cases c <;> simp [cmdEffect, clearEffect]
@[simp] theorem cmdEffect_txBusy (c : Cmd) : (cmdEffect c s).txBusy = s.txBusy := by
  cases c <;> simp [cmdEffect, clearEffect]
@[simp] theorem cmdEffect_txIdx (c : Cmd) : (cmdEffect c s).txIdx = s.txIdx := by
  cases c <;> simp [cmdEffect, clearEffect]
@[simp] theorem cmdEffect_txBit (c : Cmd) : (cmdEffect c s).txBit = s.txBit := by
  cases c <;> simp [cmdEffect, clearEffect]
@[simp] theorem cmdEffect_txWord (c : Cmd) : (cmdEffect c s).txWord = s.txWord := by
  cases c <;> simp [cmdEffect, clearEffect]
@[simp] theorem cmdEffect_ledClk (c : Cmd) : (cmdEffect c s).ledClk = s.ledClk := by
  cases c <;> simp [cmdEffect, clearEffect]
@[simp] theorem cmdEffect_ledData (c : Cmd) : (cmdEffect c s).ledData = s.ledData := by
  cases c <;> simp [cmdEffect, clearEffect]
@[simp] theorem cmdEffect_irqEn (c : Cmd) : (cmdEffect c s).irqEn = s.irqEn := by
  cases c <;> simp [cmdEffect, clearEffect]
@[simp] theorem cmdEffect_argBright (c : Cmd) : (cmdEffect c s).argBright = s.argBright := by
  cases c <;> simp [cmdEffect, clearEffect]
@[simp] theorem cmdEffect_argRed (c : Cmd) : (cmdEffect c s).argRed = s.argRed := by
  cases c <;> simp [cmdEffect, clearEffect]
@[simp] theorem cmdEffect_argGreen (c : Cmd) : (cmdEffect c s).argGreen = s.argGreen := by
  cases c <;> simp [cmdEffect, clearEffect]
@[simp] theorem cmdEffect_argBlue (c : Cmd) : (cmdEffect c s).argBlue = s.argBlue := by
  cases c <;> simp [cmdEffect, clearEffect]
@[simp] theorem cmdEffect_argFirst (c : Cmd) : (cmdEffect c s).argFirst = s.argFirst := by
  cases c <;> simp [cmdEffect, clearEffect]
@[simp] theorem cmdEffect_argLast (c : Cmd) : (cmdEffect c s).argLast = s.argLast := by
  cases c <;> simp [cmdEffect, clearEffect]
@[simp] theorem cmdEffect_cmdWait (c : Cmd) : (cmdEffect c s).cmdWait = s.cmdWait := by
  cases c <;> simp [cmdEffect, clearEffect]
@[simp] theorem cmdEffect_responses (c : Cmd) : (cmdEffect c s).responses = s.responses := by
  cases c <;> simp [cmdEffect, clearEffect]
@[simp] theorem cmdEffect_wire (c : Cmd) : (cmdEffect c s).wire = s.wire := by
  cases c <;> simp [cmdEffect, clearEffect]
@[simp] theorem cmdEffect_hostQueue (c : Cmd) : (cmdEffect c s).hostQueue = s.hostQueue := by
  cases c <;> simp [cmdEffect, clearEffect]
@[simp] theorem cmdEffect_turns (c : Cmd) : (cmdEffect c s).turns = s.turns := by
  cases c <;> simp [cmdEffect, clearEffect]
@[simp] theorem cmdEffect_cycles (c : Cmd) : (cmdEffect c s).cycles = s.cycles := by
  cases c <;> simp [cmdEffect, clearEffect]

/-- A command never clears dirty. -/
theorem cmdEffect_dirty (c : Cmd) (h : s.dirty = true) : (cmdEffect c s).dirty = true := by
  cases c <;> simp [cmdEffect, clearEffect, fillEffect, h]
  split <;> simp [h]

/-- Only ENCODE writes ENC_RESULT. -/
theorem cmdEffect_encResult (c : Cmd) (h : c ≠ .encode) : (cmdEffect c s).encResult = s.encResult := by
  cases c <;> simp [cmdEffect, clearEffect] at h ⊢

/-- A command leaves the flags alone, or it is a reserved word and sets CMDERR. -/
theorem cmdEffect_irqFlags (c : Cmd) :
    (cmdEffect c s).irqFlags = s.irqFlags ∨
      (((∃ o, c = .reservedOp o) ∨ ∃ r x, c = .reservedRsv r x) ∧
        (cmdEffect c s).irqFlags = s.irqFlags ||| 0b10000#5) := by
  cases c <;> simp [cmdEffect, clearEffect, Flag.bit]

end Sys2Proof.Machine
end

