-- ==== Sys2Proof/Laws/Step.lean ====
section
/-! SUPPORT. One step, said once: what it is at a turn and at a clock edge, and that no instruction is
refused. -/
namespace Sys2Proof.Machine

variable {s : State}

/-- A step at a turn runs the turn. -/
theorem step_turn {x : Turn} {xs : List Turn} (hl : s.cfg.legal) (ht : s.turns = x :: xs) :
    step s = runTurn x { s with turns := xs } := by
  unfold step
  rw [if_pos hl, ht]

/-- A step at the end of a clock cycle is the clock edge. -/
theorem step_edge (hl : s.cfg.legal) (ht : s.turns = []) : step s = .next (clockEdge s) := by
  unfold step
  rw [if_pos hl, ht]

/-- A run goes on from the state its first step answers. -/
theorem run_of_step_next {M : Host.Core} {n : Nat} {s t : M.State} (h : M.step s = .next t) :
    M.run (n + 1) s = M.run n t := by
  simp only [Host.Core.run, h]

theorem core_run_zero (s : State) : core.run 0 s = .next s := rfl

theorem core_run_succ {n : Nat} {s t : State} (h : step s = .next t) :
    core.run (n + 1) s = core.run n t :=
  run_of_step_next (M := core) h

theorem orAbsent_ne_refused {α : Type} {o : Option α}
    {k : α → Host.Outcome State Fault Refusal} {r : Refusal} (hk : ∀ a, k a ≠ .refused r) :
    orAbsent o k ≠ .refused r := by
  cases o with
  | some a => exact hk a
  | none => exact fun h => by cases h

theorem cmdWrite_ne_refused (v : Word) (e : State → State) (s : State) (r : Refusal) :
    cmdWrite v e s ≠ .refused r := by
  unfold cmdWrite acknowledge
  split <;> exact fun h => by cases h

/-- Every instruction has a meaning: none is refused, in any state. -/
theorem exec_ne_refused (i : Instr) (s : State) (r : Refusal) : exec i s ≠ .refused r := by
  cases i with
  | nop => exact cmdWrite_ne_refused _ _ s r
  | fill => exact cmdWrite_ne_refused _ _ s r
  | clear => exact cmdWrite_ne_refused _ _ s r
  | encodeCmd => exact cmdWrite_ne_refused _ _ s r
  | reservedOp o => exact cmdWrite_ne_refused _ _ s r
  | reservedRsv x y => exact cmdWrite_ne_refused _ _ s r
  | wrCmd v => simp only [exec, execWrCmd_eq]; exact cmdWrite_ne_refused _ _ s r
  | rdSnap i =>
    simp only [exec, execRdSnap, answer]
    split
    · exact orAbsent_ne_refused fun _ h => by cases h
    · exact fun h => by cases h
  | rdPixbuf i =>
    simp only [exec, execRdPixbuf, answer]
    split
    · exact orAbsent_ne_refused fun _ h => by cases h
    · exact fun h => by cases h
  | rxByte b => simp only [exec, execRxByte]; split <;> exact fun h => by cases h
  | tbTick => simp only [exec, execTbTick]; split <;> exact fun h => by cases h
  | secTick => simp only [exec, execSecTick]; split <;> exact fun h => by cases h
  | txFault => simp only [exec, execTxFault]; split <;> exact fun h => by cases h
  | reset => simp only [exec, execReset]; split <;> exact fun h => by cases h
  | fillStep =>
    simp only [exec, execFillStep]
    split
    · split
      · exact orAbsent_ne_refused fun _ h => by cases h
      · exact fun h => by cases h
    · exact fun h => by cases h
  | txStart =>
    simp only [exec, execTxStart]
    split
    · exact orAbsent_ne_refused fun _ => orAbsent_ne_refused fun _ h => by cases h
    · exact fun h => by cases h
  | txBit =>
    simp only [exec, execTxBit]
    split
    · exact orAbsent_ne_refused fun _ h => by cases h
    · exact fun h => by cases h
  | txEnd => simp only [exec, execTxEnd]; split <;> exact fun h => by cases h
  | _ => exact fun h => by cases h

end Sys2Proof.Machine
end

