-- ==== Sys2Proof/Laws/Exec.lean ====
section
/-! SUPPORT. What any instruction can do, said once: `Effect i s t` lists the ways `i` leads from `s` to a
next state `t`, and `exec_effect` says that there are no others. -/
namespace Sys2Proof.Machine

/-- The command an instruction stands for, and the word of its CMD write. -/
inductive IsCommand : Instr → Word → Cmd → Prop where
  | wrCmd (v : Word) : IsCommand (.wrCmd v) v (decodeCmd v)
  | nop : IsCommand .nop 0x00000000#32 .nop
  | fill : IsCommand .fill 0x00000001#32 .fill
  | clear : IsCommand .clear 0x00000002#32 .clear
  | encode : IsCommand .encodeCmd 0x00000003#32 .encode
  | reservedOp (o : BitVec 4) : IsCommand (.reservedOp o) (0#28 ++ o) (.reservedOp o)
  | reservedRsv (r : BitVec 28) (x : BitVec 4) : IsCommand (.reservedRsv r x) (r ++ x) (.reservedRsv r x)

/-- The ways an instruction leads to a next state. -/
inductive Effect : Instr → State → State → Prop where
  /-- A host read is answered, and nothing else happens. -/
  | read (i : Instr) (s : State) (r : Response) : Effect i s (respond r s)
  /-- An internal step that is not enabled is not taken. -/
  | idle (i : Instr) (s : State) : Effect i s s
  | irqFlags (d : Word) (s : State) : Effect (.wrIrqFlags d) s (respond .ack (clearFlags d s))
  | irqEn (d : Word) (s : State) :
      Effect (.wrIrqEn d) s (respond .ack { s with irqEn := d.extractLsb' 0 5 })
  | argBright (d : Word) (s : State) : Effect (.wrArgBright d) s (respond .ack { s with argBright := d })
  | argRed (d : Word) (s : State) : Effect (.wrArgRed d) s (respond .ack { s with argRed := d })
  | argGreen (d : Word) (s : State) : Effect (.wrArgGreen d) s (respond .ack { s with argGreen := d })
  | argBlue (d : Word) (s : State) : Effect (.wrArgBlue d) s (respond .ack { s with argBlue := d })
  | argFirst (d : Word) (s : State) : Effect (.wrArgFirst d) s (respond .ack { s with argFirst := d })
  | argLast (d : Word) (s : State) : Effect (.wrArgLast d) s (respond .ack { s with argLast := d })
  /-- A CMD write during a fill waits. -/
  | held {i : Instr} {v : Word} {c : Cmd} {s : State} (hi : IsCommand i v c) (hb : s.feBusy = true) :
      Effect i s { s with cmdWait := some v }
  /-- Otherwise the command acts and is acknowledged. -/
  | command {i : Instr} {v : Word} {c : Cmd} {s : State} (hi : IsCommand i v c) (hb : s.feBusy = false) :
      Effect i s (respond .ack (cmdEffect c s))
  | fillStep {s : State} (hb : s.feBusy = true)
      (hr : 1 ≤ s.feIdx ∧ s.feIdx ≤ s.feLast ∧ s.feLast ≤ s.cfg.npix) (hl : s.feIdx < s.buf.length) :
      Effect .fillStep s (fillAdvance { s with buf := s.buf.set s.feIdx s.feWord })
  | append (b : Byte) {s : State} (hl : s.acc.length < accMax) : Effect (.rxByte b) s (appendByte b s)
  | discard (b : Byte) {s : State} (hl : accMax ≤ s.acc.length) :
      Effect (.rxByte b) s (discardAcc (appendByte b s))
  | count (s : State) : Effect .tbTick s (countTick s)
  | drop {s : State} (ha : s.armed = true) (hv : frameValid s.cfg s.acc = false) :
      Effect .tbTick s (consumeAcc (countTick s))
  | latch {s : State} (ha : s.armed = true) (hv : frameValid s.cfg s.acc = true) :
      Effect .tbTick s (consumeAcc (latch (countTick s)))
  | second {s : State} (hc : (linkDecision s).changed = false) :
      Effect .secTick s (storeDecision (linkDecision s) s)
  | transition {s : State} (hc : (linkDecision s).changed = true) :
      Effect .secTick s (setFlag .linkchg (storeDecision (linkDecision s) s))
  | txStart {s : State} (hb : s.txBusy = false) (hd : s.dirty = true)
      (hl : s.cfg.npix + 1 < s.buf.length) : Effect .txStart s (txBegin (withMarkers s))
  | txBit {s : State} {w : Word} (hb : s.txBusy = true) (hi : s.txIdx ≤ s.cfg.npix + 1)
      (hw : txCurrent s = some w) :
      Effect .txBit s (txAdvance (emit (w.getLsbD s.txBit.val) { s with txWord := w }))
  | txEnd {s : State} (hb : s.txBusy = true) (hi : s.txIdx = s.cfg.npix + 2) :
      Effect .txEnd s { txRest s with dirty := false }
  | txFault {s : State} (hb : s.txBusy = true) : Effect .txFault s (setFlag .txerr (txAbort s))
  | reset (s : State) : Effect .reset s (resetBlock s)
  | resetAbort {s : State} (hb : s.txBusy = true) : Effect .reset s (resetBlock (txAbort s))

variable {s t : State}

theorem cmdWrite_effect {i : Instr} {v : Word} {c : Cmd} (hi : IsCommand i v c)
    (h : cmdWrite v (cmdEffect c) s = .next t) : Effect i s t := by
  rcases cmdWrite_next h with ⟨hb, rfl⟩ | ⟨hb, rfl⟩
  · exact .held hi hb
  · exact .command hi hb

/-- What an instruction does is one of its effects. -/
theorem exec_effect {i : Instr} (h : exec i s = .next t) : Effect i s t := by
  cases i with
  | nop => exact cmdWrite_effect .nop h
  | fill => exact cmdWrite_effect .fill h
  | clear => exact cmdWrite_effect .clear h
  | encodeCmd => exact cmdWrite_effect .encode h
  | reservedOp o => exact cmdWrite_effect (.reservedOp o) h
  | reservedRsv r x => exact cmdWrite_effect (.reservedRsv r x) h
  | wrCmd v => exact cmdWrite_effect (.wrCmd v) ((execWrCmd_eq v s).symm.trans h)
  | rdSnap i => obtain ⟨r, rfl⟩ := execRdSnap_next h; exact .read _ s r
  | rdPixbuf i => obtain ⟨r, rfl⟩ := execRdPixbuf_next h; exact .read _ s r
  | wrIrqFlags d => cases h; exact .irqFlags d s
  | wrIrqEn d => cases h; exact .irqEn d s
  | wrArgBright d => cases h; exact .argBright d s
  | wrArgRed d => cases h; exact .argRed d s
  | wrArgGreen d => cases h; exact .argGreen d s
  | wrArgBlue d => cases h; exact .argBlue d s
  | wrArgFirst d => cases h; exact .argFirst d s
  | wrArgLast d => cases h; exact .argLast d s
  | rxByte b => rcases execRxByte_next h with ⟨hl, rfl⟩ | ⟨hl, rfl⟩; exacts [.append b hl, .discard b hl]
  | tbTick =>
    rcases execTbTick_next h with rfl | ⟨ha, hv, rfl⟩ | ⟨ha, hv, rfl⟩
    exacts [.count s, .drop ha hv, .latch ha hv]
  | secTick =>
    simp only [exec, execSecTick] at h
    split at h
    · rename_i hc; cases h; exact .transition hc
    · rename_i hc; cases h; exact .second (by simpa using hc)
  | fillStep =>
    rcases execFillStep_next h with ⟨-, rfl⟩ | ⟨hb, h1, h2, h3, hl, rfl⟩
    exacts [.idle _ _, .fillStep hb ⟨h1, h2, h3⟩ hl]
  | txStart =>
    rcases execTxStart_next h with ⟨-, rfl⟩ | ⟨hb, hd, hl, rfl⟩
    exacts [.idle _ _, .txStart hb hd hl]
  | txBit =>
    rcases execTxBit_next h with ⟨-, rfl⟩ | ⟨hb, hi, w, hw, rfl⟩
    exacts [.idle _ _, .txBit hb hi hw]
  | txEnd =>
    rcases execTxEnd_next h with ⟨-, rfl⟩ | ⟨hb, hi, rfl⟩
    exacts [.idle _ _, .txEnd hb hi]
  | txFault =>
    rcases execTxFault_next h with ⟨-, rfl⟩ | ⟨hb, rfl⟩
    exacts [.idle _ _, .txFault hb]
  | reset =>
    simp only [exec, execReset] at h
    split at h
    · rename_i hb; cases h; exact .resetAbort hb
    · cases h; exact .reset s
  | _ => cases h; exact .read _ s _

end Sys2Proof.Machine
end

