-- ==== Sys2Proof/Laws/Memory.lean ====
section
/-! SUPPORT. The three memories: reset has their one form, every operation and so every instruction
keeps it, and a word written is the word read. -/
namespace Sys2Proof.Machine

variable {s t : State}

/-- The form is about the memories and the configuration alone. -/
theorem memory_wf_of_eq (h : Memory.wf s) (hc : t.cfg = s.cfg) (ha : t.acc.length ≤ accMax)
    (hs : t.snap = s.snap) (hb : t.buf.length = s.buf.length) : Memory.wf t :=
  ⟨ha, by rw [hs, hc]; exact h.2.1, by rw [hb, hc]; exact h.2.2⟩

theorem resetOf_wf (cfg : Config) : Memory.wf (State.resetOf cfg) := by
  simp [Memory.wf, State.resetOf, accMax]

theorem reset_wf : Memory.wf State.reset := resetOf_wf _

theorem resetBlock_wf (s : State) : Memory.wf (resetBlock s) := by
  simp [Memory.wf, accMax]

theorem writeBuf_wf {i : Nat} {w : Word} (h : Memory.wf s) (hw : writeBuf i w s = some t) :
    Memory.wf t := by
  obtain ⟨-, rfl⟩ := writeBuf_eq_some.mp hw
  exact memory_wf_of_eq h rfl h.1 rfl (by simp)

theorem withMarkers_wf (h : Memory.wf s) : Memory.wf (withMarkers s) :=
  memory_wf_of_eq h rfl h.1 rfl (by simp [withMarkers])

theorem appendByte_wf (b : Byte) (h : Memory.wf s) (hl : s.acc.length < accMax) :
    Memory.wf (appendByte b s) :=
  memory_wf_of_eq h rfl (by simpa using hl) rfl rfl

theorem discardAcc_wf (h : s.snap.length = s.cfg.count ∧ s.buf.length = s.cfg.npix + 2) :
    Memory.wf (discardAcc s) :=
  ⟨by simp, h.1, h.2⟩

theorem consumeAcc_wf (h : Memory.wf s) : Memory.wf (consumeAcc s) :=
  memory_wf_of_eq h rfl (by simp) rfl rfl

/-- A valid frame covers the window, so the new snapshot has its size. -/
theorem latch_wf (h : Memory.wf s) (hv : frameValid s.cfg s.acc = true) : Memory.wf (latch s) := by
  simp only [frameValid, Bool.and_eq_true, decide_eq_true_eq] at hv
  exact ⟨h.1, by simp; omega, h.2.2⟩

/-- The buffer holds a word at every index the configuration gives it. -/
theorem readBuf_some (h : Memory.wf s) {i : Nat} (hi : i ≤ s.cfg.npix + 1) :
    ∃ w, readBuf i s = some w :=
  ⟨_, List.getElem?_eq_getElem (by rw [h.2.2]; omega)⟩

/-- The snapshot holds a byte at every index of the window. -/
theorem readSnap_some (h : Memory.wf s) {i : Nat} (hi : i < s.cfg.count) :
    ∃ b, readSnap i s = some b :=
  ⟨_, List.getElem?_eq_getElem (by rw [h.2.1]; omega)⟩

/-- A write inside the buffer happens. -/
theorem writeBuf_some (h : Memory.wf s) {i : Nat} (hi : i ≤ s.cfg.npix + 1) (w : Word) :
    writeBuf i w s = some { s with buf := s.buf.set i w } :=
  if_pos (by rw [h.2.2]; omega)

/-- Every effect keeps the form. -/
theorem Effect.wf {i : Instr} (h : Effect i s t) (hw : Memory.wf s) : Memory.wf t := by
  cases h with
  | append b hl => exact appendByte_wf b hw hl
  | discard b hl => exact discardAcc_wf ⟨hw.2.1, hw.2.2⟩
  | drop ha hv => exact consumeAcc_wf ⟨hw.1, hw.2.1, hw.2.2⟩
  | latch ha hv => exact consumeAcc_wf (latch_wf ⟨hw.1, hw.2.1, hw.2.2⟩ hv)
  | txStart hb hd hl => exact withMarkers_wf hw
  | reset => exact resetBlock_wf s
  | resetAbort => exact resetBlock_wf (txAbort s)
  | _ => exact memory_wf_of_eq hw (by simp) (by simpa using hw.1) (by simp) (by simp)

/-- Every instruction keeps the form. -/
theorem exec_wf {i : Instr} (h : exec i s = .next t) (hw : Memory.wf s) : Memory.wf t :=
  (exec_effect h).wf hw

/-- No effect changes the configuration. -/
theorem Effect.cfg_eq {i : Instr} (h : Effect i s t) : t.cfg = s.cfg := by
  cases h <;> simp

end Sys2Proof.Machine
end

