-- ==== Sys2Proof/Laws/PerInstr.lean ====
section
/-! SUPPORT. The per-instruction family RoundTrip: decoding the encoding of a well-formed instruction
gives it back. -/
namespace Sys2Proof.Laws.RoundTrip

/-- What the family says of one instruction. -/
def Statement (i : Instr) : Prop :=
  ∀ cfg : Config, i.wellFormed cfg = true → decode cfg (encode i) = .instr i

theorem nop : Statement .nop := fun _ _ => rfl

theorem fill : Statement .fill := fun _ _ => rfl

theorem clear : Statement .clear := fun _ _ => rfl

theorem encodeCmd : Statement .encodeCmd := fun _ _ => rfl

theorem reservedOp (o : BitVec 4) : Statement (.reservedOp o) := fun cfg h => decode_reservedOp cfg o (by simpa [Instr.wellFormed] using h)

theorem reservedRsv (r : BitVec 28) (x : BitVec 4) : Statement (.reservedRsv r x) := fun cfg h => decode_reservedRsv cfg r x (by simpa [Instr.wellFormed] using h)

theorem rdStatus : Statement .rdStatus := fun cfg _ => decode_readOf cfg ⟨rfl, rfl⟩ rfl

theorem rdIrqFlags : Statement .rdIrqFlags := fun cfg _ => decode_readOf cfg ⟨rfl, rfl⟩ rfl

theorem wrIrqFlags (d : Word) : Statement (.wrIrqFlags d) := fun cfg _ => decode_writeOf cfg ⟨rfl, rfl⟩ rfl

theorem rdIrqEn : Statement .rdIrqEn := fun cfg _ => decode_readOf cfg ⟨rfl, rfl⟩ rfl

theorem wrIrqEn (d : Word) : Statement (.wrIrqEn d) := fun cfg _ => decode_writeOf cfg ⟨rfl, rfl⟩ rfl

theorem rdFramecount : Statement .rdFramecount := fun cfg _ => decode_readOf cfg ⟨rfl, rfl⟩ rfl

theorem rdOffsecs : Statement .rdOffsecs := fun cfg _ => decode_readOf cfg ⟨rfl, rfl⟩ rfl

theorem rdSnapseq : Statement .rdSnapseq := fun cfg _ => decode_readOf cfg ⟨rfl, rfl⟩ rfl

theorem rdAcclen : Statement .rdAcclen := fun cfg _ => decode_readOf cfg ⟨rfl, rfl⟩ rfl

theorem rdCfgBase : Statement .rdCfgBase := fun cfg _ => decode_readOf cfg ⟨rfl, rfl⟩ rfl

theorem rdCfgCount : Statement .rdCfgCount := fun cfg _ => decode_readOf cfg ⟨rfl, rfl⟩ rfl

theorem rdCfgNpix : Statement .rdCfgNpix := fun cfg _ => decode_readOf cfg ⟨rfl, rfl⟩ rfl

theorem rdCfgSilence : Statement .rdCfgSilence := fun cfg _ => decode_readOf cfg ⟨rfl, rfl⟩ rfl

theorem rdCfgTimeout : Statement .rdCfgTimeout := fun cfg _ => decode_readOf cfg ⟨rfl, rfl⟩ rfl

theorem rdCfgStartMarker : Statement .rdCfgStartMarker := fun cfg _ => decode_readOf cfg ⟨rfl, rfl⟩ rfl

theorem rdCfgEndMarker : Statement .rdCfgEndMarker := fun cfg _ => decode_readOf cfg ⟨rfl, rfl⟩ rfl

theorem rdArgBright : Statement .rdArgBright := fun cfg _ => decode_readOf cfg ⟨rfl, rfl⟩ rfl

theorem wrArgBright (d : Word) : Statement (.wrArgBright d) := fun cfg _ => decode_writeOf cfg ⟨rfl, rfl⟩ rfl

theorem rdArgRed : Statement .rdArgRed := fun cfg _ => decode_readOf cfg ⟨rfl, rfl⟩ rfl

theorem wrArgRed (d : Word) : Statement (.wrArgRed d) := fun cfg _ => decode_writeOf cfg ⟨rfl, rfl⟩ rfl

theorem rdArgGreen : Statement .rdArgGreen := fun cfg _ => decode_readOf cfg ⟨rfl, rfl⟩ rfl

theorem wrArgGreen (d : Word) : Statement (.wrArgGreen d) := fun cfg _ => decode_writeOf cfg ⟨rfl, rfl⟩ rfl

theorem rdArgBlue : Statement .rdArgBlue := fun cfg _ => decode_readOf cfg ⟨rfl, rfl⟩ rfl

theorem wrArgBlue (d : Word) : Statement (.wrArgBlue d) := fun cfg _ => decode_writeOf cfg ⟨rfl, rfl⟩ rfl

theorem rdArgFirst : Statement .rdArgFirst := fun cfg _ => decode_readOf cfg ⟨rfl, rfl⟩ rfl

theorem wrArgFirst (d : Word) : Statement (.wrArgFirst d) := fun cfg _ => decode_writeOf cfg ⟨rfl, rfl⟩ rfl

theorem rdArgLast : Statement .rdArgLast := fun cfg _ => decode_readOf cfg ⟨rfl, rfl⟩ rfl

theorem wrArgLast (d : Word) : Statement (.wrArgLast d) := fun cfg _ => decode_writeOf cfg ⟨rfl, rfl⟩ rfl

theorem wrCmd (v : Word) : Statement (.wrCmd v) := fun cfg _ => decode_writeOf cfg ⟨rfl, rfl⟩ rfl

theorem rdEncResult : Statement .rdEncResult := fun cfg _ => decode_readOf cfg ⟨rfl, rfl⟩ rfl

theorem rdSnap (i : BitVec 10) : Statement (.rdSnap i) := fun cfg h => decode_rdSnap cfg i (by simpa [Instr.wellFormed] using h)

theorem rdPixbuf (i : BitVec 12) : Statement (.rdPixbuf i) := fun cfg h => decode_rdPixbuf cfg i (by simpa [Instr.wellFormed] using h)

theorem rxByte (b : Byte) : Statement (.rxByte b) := fun _ _ => rfl

theorem tbTick : Statement .tbTick := fun _ _ => rfl

theorem secTick : Statement .secTick := fun _ _ => rfl

theorem txFault : Statement .txFault := fun _ _ => rfl

theorem reset : Statement .reset := fun _ _ => rfl

theorem fillStep : Statement .fillStep := fun _ _ => rfl

theorem txStart : Statement .txStart := fun _ _ => rfl

theorem txBit : Statement .txBit := fun _ _ => rfl

theorem txEnd : Statement .txEnd := fun _ _ => rfl

end Sys2Proof.Laws.RoundTrip
end

