-- ==== Sys2Proof/Laws/Values.lean ====
section
/-! SUPPORT. The values the shared operations compute, as numbers: saturation, clamping, the pixel word,
the rules of a second tick; and running instructions one after another. -/
namespace Sys2Proof.Machine

theorem satInc16_toNat (v : Count) : (satInc16 v).toNat = min (v.toNat + 1) 65535 := by
  simp [satInc16]

theorem clamp_bounds (v : Int) {hi : Int} (h : 0 ≤ hi) : 0 ≤ clamp v 0 hi ∧ clamp v 0 hi ≤ hi := by
  unfold clamp; omega

/-- R60: `hostOffset` places each offset at BLOCK_BASE plus the offset, and knows no other address. -/
theorem hostOffset_eq_some {cfg : Config} {a : Nat} {off : Offset} :
    hostOffset cfg a = some off ↔ a = cfg.blockBase + off.toNat := by
  unfold hostOffset
  split <;> simp [← BitVec.toNat_inj] <;> omega

/-- The fields of a pixel word do not overlap: it is their sum, each at its place. -/
theorem encodePixel_toNat (b r g bl : Int) : ((encodePixel b r g bl).toNat : Int) =
    clamp r 0 255 * 2 ^ 24 + clamp bl 0 255 * 2 ^ 16 + clamp g 0 255 * 2 ^ 8 + 224 + clamp b 0 31 := by
  have := clamp_bounds r (hi := 255) (by omega)
  have := clamp_bounds bl (hi := 255) (by omega)
  have := clamp_bounds g (hi := 255) (by omega)
  have := clamp_bounds b (hi := 31) (by omega)
  unfold encodePixel
  simp only [toNat_append_add, BitVec.toNat_ofInt]
  simp
  omega

/-! Rules 1 to 3 of a second tick, and rule 4. -/

theorem linkRules_drop {l : Link} {f n : Nat} (h : l = .online) (hf : f < 5) :
    linkRules l f n = ⟨.offline, 0, true⟩ := if_pos ⟨h, hf⟩

theorem linkRules_stay {l : Link} {f n : Nat} (h : l = .online) (hf : 5 ≤ f) :
    linkRules l f n = ⟨l, n, false⟩ := by
  unfold linkRules onlineMin
  rw [if_neg (by omega), if_neg (by simp [h]), if_neg (by simp [h])]

theorem linkRules_rise {l : Link} {f n : Nat} (h : l ≠ .online) (hf : 0 < f) :
    linkRules l f n = ⟨.online, n, true⟩ := by
  unfold linkRules
  rw [if_neg (by simp [h]), if_pos ⟨h, hf⟩]

theorem linkRules_count {l : Link} {f n : Nat} (h : l ≠ .online) (hf : f = 0) :
    linkRules l f n = ⟨l, n + 1, false⟩ := by
  unfold linkRules
  rw [if_neg (by simp [h]), if_neg (by omega), if_pos ⟨h, hf⟩]

theorem timeoutRule_below {T : Nat} {d : LinkDecision} (h : d.secs < T) : timeoutRule T d = d :=
  if_neg (by omega)

theorem timeoutRule_reached {T : Nat} {d : LinkDecision} (h : T ≤ d.secs) :
    timeoutRule T d = ⟨.timedOut, 0, true⟩ := if_pos h

/-! The transmitter's counters. -/

theorem txAdvance_last {s : State} (h : s.txBit = 0) :
    txAdvance s = { s with txBit := 31, txIdx := s.txIdx + 1 } := if_pos h

theorem txAdvance_next {s : State} (h : s.txBit ≠ 0) :
    txAdvance s = { s with txBit := s.txBit - 1 } := if_neg h

/-! Several instructions. -/

theorem execAll_cons {i : Instr} {is : List Instr} {s t : State} (h : exec i s = .next t) :
    execAll (i :: is) s = execAll is t := by
  simp only [execAll, h]

theorem execAll_append {a b : List Instr} {s t : State} (h : execAll a s = .next t) :
    execAll (a ++ b) s = execAll b t := by
  induction a generalizing s with
  | nil => cases h; rfl
  | cons i is ih =>
    cases he : exec i s with
    | next u => rw [execAll_cons he] at h; rw [List.cons_append, execAll_cons he]; exact ih h
    | fault f => simp [execAll, he] at h
    | refused r => simp [execAll, he] at h

/-- The pixels are the words at the indices 1 to NPIX. -/
theorem mem_pixels {s : State} {w : Word} :
    w ∈ pixels s ↔ ∃ j, 1 ≤ j ∧ j ≤ s.cfg.npix ∧ s.buf[j]? = some w := by
  unfold pixels
  rw [List.mem_iff_getElem?]
  constructor
  · rintro ⟨n, hn⟩
    rw [List.getElem?_take] at hn
    split at hn
    · exact ⟨n + 1, by omega, by omega, by simpa [Nat.add_comm] using hn⟩
    · cases hn
  · rintro ⟨j, h1, h2, h3⟩
    refine ⟨j - 1, ?_⟩
    rw [List.getElem?_take, if_pos (by omega), List.getElem?_drop, show 1 + (j - 1) = j by omega, h3]

end Sys2Proof.Machine
end

