-- ==== Sys2Proof/Tests/Slice0.lean ====
section
/-! SUPPORT. The model's own tests: what WellFormed refuses, what each word decodes to, one step on small
states, and a witness for every statement that has hypotheses. Expected values are the spec's: "ENC-2" and
the like name a row of 95_test_vectors.md, other words are written out from 30_encoding.md R80, R90 and
10_state.md R22. -/
namespace Sys2Proof.Machine.Tests

/-! ## WellFormed -/

/-- A window of four channels, four pixels (95_test_vectors.md §2.2). -/
def cfg : Config := { Config.standard 4 0 with count := 4 }

theorem test_wellFormed_refuses_op_3 : (Instr.reservedOp 3#4).wellFormed cfg = false := by decide
theorem test_wellFormed_refuses_rsv_0 : (Instr.reservedRsv 0#28 5#4).wellFormed cfg = false := by decide
theorem test_wellFormed_refuses_snap_4 : (Instr.rdSnap 4#10).wellFormed cfg = false := by decide
theorem test_wellFormed_refuses_pixbuf_6 : (Instr.rdPixbuf 6#12).wellFormed cfg = false := by decide
theorem test_wellFormed_admits_the_bounds :
    (Instr.reservedOp 4#4).wellFormed cfg = true ∧ (Instr.reservedOp 15#4).wellFormed cfg = true ∧
    (Instr.reservedRsv 1#28 0#4).wellFormed cfg = true ∧ (Instr.rdSnap 3#10).wellFormed cfg = true ∧
    (Instr.rdPixbuf 5#12).wellFormed cfg = true := by decide

/-! ## Decoding: every constructor, by a word or an offset written out -/

/-- A 32-bit read at `off`, decoded. -/
def rd (off : Offset) : Decoded := decode cfg (.host (.read 32 off))

/-- A 32-bit write of `d` at `off`, decoded. -/
def wr (off : Offset) (d : Word) : Decoded := decode cfg (.host (.write 32 off d))

theorem test_decode_command_nop :
    decode cfg (.host (.command 0b00000000000000000000000000000000#32)) = .instr .nop := by decide
theorem test_decode_command_fill :
    decode cfg (.host (.command 0b00000000000000000000000000000001#32)) = .instr .fill := by decide
theorem test_decode_command_clear :
    decode cfg (.host (.command 0b00000000000000000000000000000010#32)) = .instr .clear := by decide
theorem test_decode_command_encode :
    decode cfg (.host (.command 0b00000000000000000000000000000011#32)) = .instr .encodeCmd := by decide
theorem test_decode_command_op_4 :
    decode cfg (.host (.command 0b00000000000000000000000000000100#32)) = .instr (.reservedOp 4#4) := by decide
theorem test_decode_command_op_15 :
    decode cfg (.host (.command 0b00000000000000000000000000001111#32)) = .instr (.reservedOp 15#4) := by decide
theorem test_decode_command_rsv_1 :
    decode cfg (.host (.command 0b00000000000000000000000000010001#32)) = .instr (.reservedRsv 1#28 1#4) := by decide
theorem test_decode_command_rsv_top :
    decode cfg (.host (.command 0b10000000000000000000000000000001#32)) = .instr (.reservedRsv 0x8000000#28 1#4) := by decide

theorem test_decode_rdStatus : rd 0b000000000000000#15 = .instr .rdStatus := by decide
theorem test_decode_rdIrqFlags : rd 0b000000000000100#15 = .instr .rdIrqFlags := by decide
theorem test_decode_rdIrqEn : rd 0b000000000001000#15 = .instr .rdIrqEn := by decide
theorem test_decode_rdFramecount : rd 0b000000000001100#15 = .instr .rdFramecount := by decide
theorem test_decode_rdOffsecs : rd 0b000000000010000#15 = .instr .rdOffsecs := by decide
theorem test_decode_rdSnapseq : rd 0b000000000010100#15 = .instr .rdSnapseq := by decide
theorem test_decode_rdAcclen : rd 0b000000000011000#15 = .instr .rdAcclen := by decide
theorem test_decode_rdCfgBase : rd 0b000000000100000#15 = .instr .rdCfgBase := by decide
theorem test_decode_rdCfgCount : rd 0b000000000100100#15 = .instr .rdCfgCount := by decide
theorem test_decode_rdCfgNpix : rd 0b000000000101000#15 = .instr .rdCfgNpix := by decide
theorem test_decode_rdCfgSilence : rd 0b000000000101100#15 = .instr .rdCfgSilence := by decide
theorem test_decode_rdCfgTimeout : rd 0b000000000110000#15 = .instr .rdCfgTimeout := by decide
theorem test_decode_rdCfgStartMarker :
    rd 0b000000000110100#15 = .instr .rdCfgStartMarker := by decide
theorem test_decode_rdCfgEndMarker : rd 0b000000000111000#15 = .instr .rdCfgEndMarker := by decide
theorem test_decode_rdArgBright : rd 0b000000001000000#15 = .instr .rdArgBright := by decide
theorem test_decode_rdArgRed : rd 0b000000001000100#15 = .instr .rdArgRed := by decide
theorem test_decode_rdArgGreen : rd 0b000000001001000#15 = .instr .rdArgGreen := by decide
theorem test_decode_rdArgBlue : rd 0b000000001001100#15 = .instr .rdArgBlue := by decide
theorem test_decode_rdArgFirst : rd 0b000000001010000#15 = .instr .rdArgFirst := by decide
theorem test_decode_rdArgLast : rd 0b000000001010100#15 = .instr .rdArgLast := by decide
theorem test_decode_rdEncResult : rd 0b000000001011100#15 = .instr .rdEncResult := by decide
theorem test_decode_rdSnap : rd 0b001000000001100#15 = .instr (.rdSnap 3#10) := by decide
theorem test_decode_rdPixbuf : rd 0b100000000010100#15 = .instr (.rdPixbuf 5#12) := by decide
theorem test_decode_rdPixbuf_last :
    decode (Config.standard 4094 0) (.host (.read 32 0x7FFC#15)) = .instr (.rdPixbuf 4095#12) := by decide
theorem test_decode_rdSnap_last :
    decode (Config.standard 1 0) (.host (.read 32 0x17FC#15)) = .instr (.rdSnap 511#10) := by decide
/-- R60. -/
theorem test_hostOffset_at_the_edges_of_the_window :
    let c := Config.standard 4 0x40000000
    (hostOffset c 0x40000000, hostOffset c 0x40007FFC, hostOffset c 0x40008000, hostOffset c 0x3FFFFFFF) =
      (some 0#15, some 0x7FFC#15, none, none) := by decide

theorem test_decode_wrIrqFlags :
    wr 0b000000000000100#15 0x12345678#32 = .instr (.wrIrqFlags 0x12345678#32) := by decide
theorem test_decode_wrIrqEn :
    wr 0b000000000001000#15 0x12345678#32 = .instr (.wrIrqEn 0x12345678#32) := by decide
theorem test_decode_wrArgBright :
    wr 0b000000001000000#15 0x12345678#32 = .instr (.wrArgBright 0x12345678#32) := by decide
theorem test_decode_wrArgRed :
    wr 0b000000001000100#15 0x12345678#32 = .instr (.wrArgRed 0x12345678#32) := by decide
theorem test_decode_wrArgGreen :
    wr 0b000000001001000#15 0x12345678#32 = .instr (.wrArgGreen 0x12345678#32) := by decide
theorem test_decode_wrArgBlue :
    wr 0b000000001001100#15 0x12345678#32 = .instr (.wrArgBlue 0x12345678#32) := by decide
theorem test_decode_wrArgFirst :
    wr 0b000000001010000#15 0x12345678#32 = .instr (.wrArgFirst 0x12345678#32) := by decide
theorem test_decode_wrArgLast :
    wr 0b000000001010100#15 0x12345678#32 = .instr (.wrArgLast 0x12345678#32) := by decide
theorem test_decode_wrCmd :
    wr 0b000000001011000#15 0x12345678#32 = .instr (.wrCmd 0x12345678#32) := by decide

theorem test_decode_rxByte :
    decode cfg (.event (.rx 0xA5#8)) = .instr (.rxByte 0xA5#8) := by decide
theorem test_decode_tbTick : decode cfg (.event .tb) = .instr .tbTick := by decide
theorem test_decode_secTick : decode cfg (.event .sec) = .instr .secTick := by decide
theorem test_decode_txFault : decode cfg (.event .ledFault) = .instr .txFault := by decide
theorem test_decode_reset : decode cfg (.event .rst) = .instr .reset := by decide
theorem test_decode_fillStep : decode cfg (.event .fillStep) = .instr .fillStep := by decide
theorem test_decode_txStart : decode cfg (.event .txStart) = .instr .txStart := by decide
theorem test_decode_txBit : decode cfg (.event .txBit) = .instr .txBit := by decide
theorem test_decode_txEnd : decode cfg (.event .txEnd) = .instr .txEnd := by decide

/-! Refused accesses, by the check that fails first (95_test_vectors.md §2.2). -/

/-- HA-1 -/
theorem test_refuses_width : decode cfg (.host (.read 8 0x000#15)) = .busError .width := by decide
/-- HA-2 -/
theorem test_refuses_misaligned : rd 0x002#15 = .busError .misaligned := by decide
/-- HA-3 -/
theorem test_refuses_write_status : wr 0x000#15 0#32 = .busError .direction := by decide
/-- HA-4 -/
theorem test_refuses_read_cmd : rd 0x058#15 = .busError .direction := by decide
/-- HA-5 -/
theorem test_refuses_hole : rd 0x01C#15 = .busError .reservedOffset := by decide
/-- HA-6 -/
theorem test_refuses_snap_count : rd 0x1010#15 = .busError .reservedOffset := by decide
/-- HA-8 -/
theorem test_refuses_pixbuf_past_end : rd 0x4018#15 = .busError .reservedOffset := by decide
/-- HA-9 -/
theorem test_refuses_write_pixbuf : wr 0x4004#15 0#32 = .busError .direction := by decide
/-- HA-16 -/
theorem test_refuses_gap : rd 0x0FFC#15 = .busError .reservedOffset := by decide
theorem test_refuses_hole_above_snap : rd 0x2000#15 = .busError .reservedOffset := by decide

/-! The table's words. -/

/-- A part of the state an instruction leads to. -/
def got {α : Type} (f : State → α) : Host.Outcome State Fault Refusal → Option α
  | .next t => some (f t)
  | .fault _ => none
  | .refused _ => none

theorem test_tableWord_command :
    decodeTableWord 32 0x00000003 = some .encodeCmd ∧ decodeTableWord 32 0x11 = some (.reservedRsv 1#28 1#4) := by
  decide
theorem test_tableWord_offset :
    decodeTableWord 15 0x05C = some .rdEncResult ∧ decodeTableWord 15 0x058 = some (.wrCmd 0#32) ∧
    decodeTableWord 15 0x01C = none := by decide
theorem test_tableWord_event :
    decodeTableWord 9 0x1A5 = some (.rxByte 0xA5#8) ∧ decodeTableWord 1 1 = some .tbTick ∧
    decodeTableWord 0 0 = some .fillStep := by decide
theorem test_withFetchWord_runs_its_word :
    got id (step (State.reset.withFetchWord 32 0x00000004)) = some { State.reset with
      irqFlags := 0x10#5, responses := [.ack] } := by decide +kernel
theorem test_withFetchWord_runs_its_event :
    got id (step (State.reset.withFetchWord 9 0x1A5)) = some { State.reset with
      acc := [0xA5#8], armed := true } := by decide +kernel

/-! ## One step of each instruction -/

/-- The block after reset. -/
def s0 : State := State.resetOf cfg

/-- The state an instruction leads to. -/
def ends (i : Instr) (s : State) : Option State := got id (exec i s)

/-- What an instruction answers on the bus. -/
def answers (i : Instr) (s : State) : Option (List Response) := got State.responses (exec i s)

/-- A state whose registers hold values that tell them apart. -/
def s1 : State := { s0 with
  link := .timedOut, dirty := true, feBusy := true
  irqFlags := 0b00011#5, irqEn := 0b10100#5
  framecount := 0x1234#16, offsecs := 7#16, snapseq := 0xFFFF#16
  acc := [0#8, 1#8, 2#8, 3#8, 4#8], armed := true
  snap := [10#8, 20#8, 30#8, 40#8]
  argBright := 1#32, argRed := 2#32, argGreen := 3#32, argBlue := 4#32
  argFirst := 0xFFFFFFF9#32, argLast := 6#32, encResult := 0xFF0000E3#32 }

/-- HA-12 -/
theorem test_rdStatus_reset : answers .rdStatus s0 = some [.data 0#32] := by decide
/-- R23: FILLBUSY, DIRTY, TimedOut. -/
theorem test_rdStatus_bits : answers .rdStatus s1 = some [.data 0b10110#32] := by decide
theorem test_rdIrqFlags : answers .rdIrqFlags s1 = some [.data 3#32] := by decide
theorem test_rdIrqEn : answers .rdIrqEn s1 = some [.data 0x14#32] := by decide
theorem test_rdFramecount : answers .rdFramecount s1 = some [.data 0x1234#32] := by decide
theorem test_rdOffsecs : answers .rdOffsecs s1 = some [.data 7#32] := by decide
theorem test_rdSnapseq : answers .rdSnapseq s1 = some [.data 0xFFFF#32] := by decide
theorem test_rdAcclen : answers .rdAcclen s1 = some [.data 5#32] := by decide
theorem test_rdCfgBase : answers .rdCfgBase s1 = some [.data 1#32] := by decide
theorem test_rdCfgCount : answers .rdCfgCount s1 = some [.data 4#32] := by decide
theorem test_rdCfgNpix : answers .rdCfgNpix s1 = some [.data 4#32] := by decide
theorem test_rdCfgSilence : answers .rdCfgSilence s1 = some [.data 2000#32] := by decide
theorem test_rdCfgTimeout : answers .rdCfgTimeout s1 = some [.data 30#32] := by decide
theorem test_rdCfgStartMarker : answers .rdCfgStartMarker s1 = some [.data 0#32] := by decide
theorem test_rdCfgEndMarker : answers .rdCfgEndMarker s1 = some [.data 0xFFFFFFFF#32] := by decide
theorem test_rdArgBright : answers .rdArgBright s1 = some [.data 1#32] := by decide
theorem test_rdArgRed : answers .rdArgRed s1 = some [.data 2#32] := by decide
theorem test_rdArgGreen : answers .rdArgGreen s1 = some [.data 3#32] := by decide
theorem test_rdArgBlue : answers .rdArgBlue s1 = some [.data 4#32] := by decide
theorem test_rdArgFirst : answers .rdArgFirst s1 = some [.data 0xFFFFFFF9#32] := by decide
theorem test_rdArgLast : answers .rdArgLast s1 = some [.data 6#32] := by decide
theorem test_rdEncResult : answers .rdEncResult s1 = some [.data 0xFF0000E3#32] := by decide
theorem test_rdSnap : answers (.rdSnap 3#10) s1 = some [.data 40#32] := by decide
/-- HA-6 -/
theorem test_rdSnap_outside :
    ends (.rdSnap 4#10) s1 = some { s1 with responses := [.busError] } := by decide
/-- HA-14 -/
theorem test_rdPixbuf_pixel : answers (.rdPixbuf 1#12) s0 = some [.data 0xE0#32] := by decide
/-- HA-7 -/
theorem test_rdPixbuf_marker :
    answers (.rdPixbuf 5#12) s0 = some [.data 0xFFFFFFFF#32] := by decide
/-- IRQ-3 -/
theorem test_wrIrqFlags :
    ends (.wrIrqFlags 1#32) s1 = some { s1 with irqFlags := 2#5, responses := [.ack] } := by decide
/-- IRQ-7 -/
theorem test_wrIrqFlags_zero :
    ends (.wrIrqFlags 0#32) s1 = some { s1 with responses := [.ack] } := by decide
/-- HA-10 -/
theorem test_wrIrqEn :
    ends (.wrIrqEn 0xFFFFFFFF#32) s0 = some { s0 with irqEn := 0x1F#5, responses := [.ack] } := by decide
theorem test_wrArgBright :
    ends (.wrArgBright 0xFFFFFFF9#32) s0 = some { s0 with argBright := 0xFFFFFFF9#32, responses := [.ack] } := by decide
theorem test_wrArgRed :
    ends (.wrArgRed 0xFFFFFFF9#32) s0 = some { s0 with argRed := 0xFFFFFFF9#32, responses := [.ack] } := by decide
theorem test_wrArgGreen :
    ends (.wrArgGreen 0xFFFFFFF9#32) s0 = some { s0 with argGreen := 0xFFFFFFF9#32, responses := [.ack] } := by decide
theorem test_wrArgBlue :
    ends (.wrArgBlue 0xFFFFFFF9#32) s0 = some { s0 with argBlue := 0xFFFFFFF9#32, responses := [.ack] } := by decide
theorem test_wrArgFirst :
    ends (.wrArgFirst 0xFFFFFFF9#32) s0 = some { s0 with argFirst := 0xFFFFFFF9#32, responses := [.ack] } := by decide
theorem test_wrArgLast :
    ends (.wrArgLast 0xFFFFFFF9#32) s0 = some { s0 with argLast := 0xFFFFFFF9#32, responses := [.ack] } := by decide

/-- `s` with the six operand registers written. -/
def args (b r g bl first last : Int) (s : State) : State := { s with
  argBright := BitVec.ofInt 32 b, argRed := BitVec.ofInt 32 r, argGreen := BitVec.ofInt 32 g
  argBlue := BitVec.ofInt 32 bl, argFirst := BitVec.ofInt 32 first, argLast := BitVec.ofInt 32 last }

/-- ENC_RESULT after ENCODE of the operands. -/
def encoded (b r g bl : Int) : Option Word :=
  got State.encResult (exec .encodeCmd (args b r g bl 0 0 s0))

/-- A state with the fill engine at work. -/
def filling : State := { s0 with feBusy := true, feIdx := 3, feLast := 4, feWord := 0xFF0000E3#32 }

/-- ENC-1, ENC-2, ENC-4, ENC-5, ENC-9 -/
theorem test_encode_vectors :
    encoded 3 255 0 0 = some 0xFF0000E3#32 ∧ encoded 31 0x12 0x34 0x56 = some 0x125634FF#32 ∧
    encoded 40 300 (-5) 256 = some 0xFFFF00FF#32 ∧ encoded (-1) (-1) (-1) (-1) = some 0x000000E0#32 ∧
    encoded 16 1 2 3 = some 0x010302F0#32 := by decide
/-- ENC-10 -/
theorem test_encode_extremes :
    encoded 0x7FFFFFFF 0x7FFFFFFF (-0x80000000) (-0x80000000) = some 0xFF0000FF#32 := by decide
/-- FB-13 -/
theorem test_nop : ends .nop s0 = some { s0 with responses := [.ack] } := by decide
/-- FB-14 -/
theorem test_nop_waits_for_the_fill :
    ends .nop filling = some { filling with cmdWait := some 0#32 } := by decide
/-- FB-1: the range 0 to 10 is clamped to 1 to 4. -/
theorem test_fill : let s := args 3 255 0 0 0 10 s0
    ends .fill s = some { s with
      feBusy := true, feIdx := 1, feLast := 4, feWord := 0xFF0000E3#32, responses := [.ack] } := by
  decide
/-- FB-5: the range -3 to 0 is empty. -/
theorem test_fill_empty : let s := args 3 255 0 0 (-3) 0 s0
    ends .fill s = some { s with dirty := true, responses := [.ack] } := by decide
/-- FB-7 -/
theorem test_clear : let s := args 3 255 0 0 0 10 s0
    ends .clear s = some { s with
      feBusy := true, feIdx := 1, feLast := 4, feWord := 0xE0#32, responses := [.ack] } := by decide
/-- FB-10 -/
theorem test_reservedOp :
    ends (.reservedOp 4#4) s0 = some { s0 with irqFlags := 0x10#5, responses := [.ack] } := by decide
/-- FB-12 -/
theorem test_reservedRsv : ends (.reservedRsv 0x8000000#28 1#4) s0 =
    some { s0 with irqFlags := 0x10#5, responses := [.ack] } := by decide
/-- FB-11: OP = 1, and yet no fill. -/
theorem test_wrCmd_reserved : ends (.wrCmd 0x11#32) s0 =
    some { s0 with irqFlags := 0x10#5, responses := [.ack] } := by decide
theorem test_wrCmd_encode :
    got State.encResult (exec (.wrCmd 3#32) (args 3 255 0 0 0 0 s0)) = some 0xFF0000E3#32 := by decide
theorem test_fillStep : ends .fillStep filling = some { filling with
    buf := [0#32, 0xE0#32, 0xE0#32, 0xFF0000E3#32, 0xE0#32, 0xFFFFFFFF#32], feIdx := 4 } := by decide
theorem test_fillStep_last : ends .fillStep { filling with feIdx := 4 } = some { filling with
    buf := [0#32, 0xE0#32, 0xE0#32, 0xE0#32, 0xFF0000E3#32, 0xFFFFFFFF#32], feIdx := 4
    feBusy := false, dirty := true } := by decide

/-- A frame with `idle` ticks of silence after it. -/
def received (bytes : List Byte) (idle : Count) : State :=
  { s0 with acc := bytes, armed := true, idle := idle }

theorem test_rxByte : ends (.rxByte 9#8) (received [0#8] 1999#16) =
    some (received [0#8, 9#8] 0#16) := by decide
/-- RX-5 -/
theorem test_rxByte_overflow : ends (.rxByte 9#8) (received (List.replicate 600 0#8) 0#16) =
    some { received [] 0#16 with irqFlags := 0x4#5 } := by decide +kernel
/-- RX-1: at 2000 ticks, not above the threshold, there is no evaluation. -/
theorem test_tbTick_at_the_threshold : ends .tbTick (received [0#8, 10#8, 20#8, 30#8, 40#8] 1999#16) =
    some (received [0#8, 10#8, 20#8, 30#8, 40#8] 2000#16) := by decide
/-- RX-1b -/
theorem test_tbTick_latches :
    ends .tbTick (received [0#8, 10#8, 20#8, 30#8, 40#8, 50#8] 2000#16) =
    some { s0 with idle := 2001#16, snap := [10#8, 20#8, 30#8, 40#8],
                    framecount := 1#16, snapseq := 1#16, irqFlags := 1#5 } := by decide
/-- RX-3: one byte short. RX-4: start code 1. -/
theorem test_tbTick_drops :
    ends .tbTick (received [0#8, 1#8, 2#8, 3#8] 2000#16) = some { s0 with idle := 2001#16 } ∧
    ends .tbTick (received [1#8, 10#8, 20#8, 30#8, 40#8] 2000#16) =
      some { s0 with idle := 2001#16 } := by decide

/-- A link state before a second tick. -/
def linked (l : Link) (secs frames : Count) : State :=
  { s0 with link := l, offsecs := secs, framecount := frames }

/-- LH-1, LH-2, LH-3, LH-8 -/
theorem test_secTick_frames :
    ends .secTick (linked .offline 0 1) = some { linked .online 0 0 with irqFlags := 2#5 } ∧
    ends .secTick (linked .online 0 5) = some (linked .online 0 0) ∧
    ends .secTick (linked .online 0 4) = some { linked .offline 0 0 with irqFlags := 2#5 } ∧
    ends .secTick (linked .timedOut 7 2) = some { linked .online 7 0 with irqFlags := 2#5 } := by decide
/-- LH-5, LH-7 -/
theorem test_secTick_timeout :
    ends .secTick (linked .offline 28 0) = some (linked .offline 29 0) ∧
    ends .secTick (linked .offline 29 0) = some { linked .timedOut 0 0 with irqFlags := 2#5 } ∧
    ends .secTick (linked .timedOut 0 0) = some (linked .timedOut 1 0) ∧
    ends .secTick (linked .timedOut 29 0) = some { linked .timedOut 0 0 with irqFlags := 2#5 } := by decide

/-- A dirty buffer whose first pixel is 0xFF0000E3 (TX-2). -/
def filled : State := { s0 with
  buf := [0#32, 0xFF0000E3#32, 0xE0#32, 0xE0#32, 0xE0#32, 0xFFFFFFFF#32], dirty := true }

/-- That buffer in transmission. -/
def sending (idx : Nat) (bit : Fin 32) (w : Word) : State :=
  { filled with txBusy := true, txIdx := idx, txBit := bit, txWord := w }

theorem test_txStart : ends .txStart filled = some { sending 0 31 0#32 with wire := [.start] } := by decide
/-- TX-4: from reset TX has nothing to do. -/
theorem test_txStart_not_dirty : ends .txStart s0 = some s0 := by decide
/-- The first bit of pixel 1, read from the buffer (TX-2). -/
theorem test_txBit_first : ends .txBit (sending 1 31 0#32) =
    some { sending 1 30 0xFF0000E3#32 with ledData := true, wire := [.bit true] } := by decide
/-- The last bit of a latched word, which the buffer no longer holds (R207). -/
theorem test_txBit_last : ends .txBit (sending 1 0 0x0000FFE0#32) =
    some { sending 2 31 0x0000FFE0#32 with wire := [.bit false] } := by decide
theorem test_txEnd : ends .txEnd (sending 6 31 0xFFFFFFFF#32) =
    some { filled with dirty := false, txWord := 0xFFFFFFFF#32 } := by decide
/-- TX-3 -/
theorem test_txFault : ends .txFault (sending 1 23 0xFF0000E3#32) = some { filled with
    txWord := 0xFF0000E3#32, irqFlags := 0x8#5, wire := [.abort] } := by decide
/-- TX-5 -/
theorem test_txFault_idle : ends .txFault s0 = some s0 := by decide
/-- RS-1, RS-3 -/
theorem test_reset : ends .reset s1 = some s0 := by decide
/-- RS-2: the transmission is abandoned. -/
theorem test_reset_sending : ends .reset (sending 1 23 0xFF0000E3#32) =
    some { s0 with wire := [.abort] } := by decide
/-- IRQ-1, IRQ-5 -/
theorem test_irq :
    State.irq { s0 with irqFlags := 1#5, irqEn := 1#5 } = true ∧
    State.irq { s0 with irqFlags := 1#5, irqEn := 0#5 } = false := by decide
/-! ## Witnesses: the hypotheses of each statement are met -/

theorem witness_DecodingAnEncodedInstructionGivesItBack :
    (Instr.reservedOp 15#4).wellFormed cfg = true ∧ (Instr.reservedRsv 1#28 15#4).wellFormed cfg = true ∧
    (Instr.rdSnap 3#10).wellFormed cfg = true ∧ (Instr.rdPixbuf 5#12).wellFormed cfg = true := by decide
theorem witness_EncodingADecodedSignalGivesItBack :
    decode cfg (.host (.read 32 0x100C#15)) = .instr (.rdSnap 3#10) ∧
    encode (.rdSnap 3#10) = .host (.read 32 0x100C#15) := by decide
theorem witness_AnAccessIsRefusedExactlyWhenTheCheckFails :
    cfg.legal ∧ readable cfg 0x100C#15 ∧ ¬ readable cfg 0x1010#15 ∧ readable cfg 0x4014#15 ∧
    ¬ readable cfg 0x4018#15 ∧ writable 0x058#15 ∧ ¬ writable 0x05C#15 := by decide

/-- A state with turns to take. -/
def atTurn (t : Turn) (s : State) : State := { s with turns := [t] }

theorem witness_AStepRunsTheEventOfItsTurn :
    s0.cfg.legal ∧ (atTurn (.event .tb) s0).turns = [.event .tb] ∧
    decode s0.cfg (.event .tb) = .instr .tbTick := by decide
theorem witness_AStepRunsTheHostsNextOperation :
    let s := { atTurn (.host true) s0 with hostQueue := [.read 32 0#15] }
    s.cfg.legal ∧ s.cmdWait = none ∧ s.turns = [.host true] ∧ s.hostQueue = [.read 32 0#15] ∧
      decode s.cfg (.host (.read 32 0#15)) = .instr .rdStatus := by decide
theorem witness_AnAgentsTurnRunsItsEnabledStep :
    (s0.cfg.legal ∧ (atTurn (.led true true) (sending 1 31 0#32)).txBusy = true) ∧
    ((atTurn (.led true true) filled).txBusy = false ∧ filled.dirty = true) ∧
    (s0.txBusy = false ∧ s0.dirty = false) ∧
    ((sending 5 31 0#32).txBusy = true ∧ (sending 5 31 0#32).txIdx ≤ s0.cfg.npix + 1) ∧
    ((sending 6 31 0#32).txBusy = true ∧ (sending 6 31 0#32).txIdx = s0.cfg.npix + 2) ∧
    ((atTurn (.fill true) filling).turns = [.fill true] ∧ filling.feBusy = true) ∧ s0.feBusy = false := by decide
theorem witness_ARefusedAccessIsAnsweredAndChangesNothing :
    let s := { atTurn (.host true) s0 with hostQueue := [.read 32 0x058#15] }
    (s.cfg.legal ∧ s.cmdWait = none ∧ s.turns = [.host true] ∧ s.hostQueue = [.read 32 0x058#15]) ∧
      ¬ readable s.cfg 0x058#15 ∧ ¬ readable s.cfg 0x1010#15 ∧ ¬ readable s.cfg 0x4018#15 ∧
      ¬ readable s.cfg 0x002#15 ∧ ¬ writable 0x05C#15 ∧ (8 : Nat) ≠ 32 := by decide
theorem witness_ACmdWriteWaitsForTheRunningFill :
    let s := { atTurn (.host true) filling with cmdWait := some 1#32 }
    s.cfg.legal ∧ s.cmdWait = some 1#32 ∧ s.turns = [.host true] ∧ s.feBusy = true ∧
      State.feBusy { s with feBusy := false } = false := by decide
theorem witness_AnIllegalConfigurationIsRefused :
    (∀ n ∈ [0, 4095], got State.cfg (step (State.resetOf (Config.standard n 0))) = none) ∧
    (∀ n ∈ [1, 4094], got State.cfg (step (State.resetOf (Config.standard n 0))) ≠ none) := by decide
theorem witness_AnIllegalConfigurationIsRefused_bounds :
    (∀ c ∈ [{ cfg with base := 510 }, { cfg with base := 0 }, { cfg with count := 0 },
      { cfg with silenceTicks := 0 }, { cfg with silenceTicks := 65535 }, { cfg with timeoutS := 0 },
      { cfg with timeoutS := 65536 }], ¬ Config.legal c) ∧
    ∀ c ∈ [{ cfg with base := 509 }, { cfg with silenceTicks := 65534 }, { cfg with timeoutS := 65535 }],
      Config.legal c := by decide

/-- A clock cycle with every port at work but `rst`. -/
def busy : Cycle :=
  { rst := false, host := true, rx := some 9#8, tb := true, sec := true, ledFault := false, tx := true, fe := true }

theorem witness_AClockCycleTakesItsTurnsInOrder :
    s0.cfg.legal ∧ s0.turns = [] ∧ State.cycles { s0 with cycles := [busy] } = [busy] ∧
    Cycle.rst { busy with rst := true } = true ∧ busy.rst = false := by decide
/-- IRQ-4 -/
theorem witness_AFlagSetInTheCycleOfItsClearingStaysSet :
    let s := { received [0#8, 1#8, 2#8, 3#8, 4#8] 2000#16 with
      hostQueue := [.write 32 0x004#15 1#32], cycles := [{ busy with rx := none }] }
    s.cfg.legal ∧ s.turns = [] ∧ s.cycles = [{ busy with rx := none }] ∧ s.cmdWait = none ∧
      s.hostQueue = [.write 32 0x004#15 1#32] ∧ s.armed = true ∧ s.cfg.silenceTicks ≤ s.idle.toNat ∧
      s.cfg.base + s.cfg.count ≤ s.acc.length ∧ s.acc[0]? = some 0x00#8 := by decide
theorem witness_AcclenAndConfigurationReadTheirNumbers :
    s1.cfg.legal ∧ s1.acc.length ≤ 600 ∧ (List.replicate 600 0#8).length ≤ 600 := by decide +kernel
theorem witness_SnapReadsTheSnapshot :
    Memory.wf s1 ∧ (3#10).toNat < s1.cfg.count ∧ s1.cfg.count ≤ (4#10).toNat := by decide
theorem witness_PixbufReadsTheBuffer :
    Memory.wf s1 ∧ (5#12).toNat ≤ s1.cfg.npix + 1 ∧ s1.cfg.npix + 1 < (6#12).toNat := by decide
theorem witness_NopChangesNothing : s0.feBusy = false ∧ filling.feBusy = true := by decide
theorem witness_AReservedCommandSetsCmderrAlone :
    s0.feBusy = false ∧ filling.feBusy = true ∧ 4 ≤ (4#32).toNat ∧ 4 ≤ (0xFFFFFFFF#32).toNat := by decide
/-- FB-1, a range of one word at either end, and the empty ranges of FB-3, FB-4, FB-5; and a fill that runs. -/
theorem witness_FillLatchesItsOperands :
    (∀ s ∈ [args 3 255 0 0 0 10 s0, args 3 255 0 0 1 1 s0, args 3 255 0 0 4 9 s0],
      s.feBusy = false ∧ max s.argFirst.toInt 1 ≤ min s.argLast.toInt s.cfg.npix) ∧
    (∀ s ∈ [args 3 255 0 0 3 2 s0, args 3 255 0 0 5 9 s0, args 3 255 0 0 (-3) 0 s0],
      s.feBusy = false ∧ min s.argLast.toInt s.cfg.npix < max s.argFirst.toInt 1) ∧
    filling.feBusy = true := by decide
/-- FB-3, FB-4, FB-5 -/
theorem witness_AnEmptyFillOnlySetsDirty :
    ∀ s ∈ [args 3 255 0 0 3 2 s0, args 3 255 0 0 5 9 s0, args 3 255 0 0 (-3) 0 s0],
    s.cfg.legal ∧ s.feBusy = false ∧ min s.argLast.toInt s.cfg.npix < max s.argFirst.toInt 1 := by decide
theorem witness_ClearIsFillWithBlackOverEveryPixel :
    s0.cfg.legal ∧ s0.feBusy = false ∧ filling.cfg.legal ∧ filling.feBusy = true := by decide
theorem witness_EncodeWritesItsResult : s0.feBusy = false ∧ filling.feBusy = true := by decide
theorem witness_WritingCmdPerformsTheCommand :
    s0.feBusy = false ∧ filling.feBusy = true := by decide
theorem witness_EncodePixelIsInjectiveOnClampedInputs :
    encodePixel 31 255 0 255 = encodePixel 31 255 0 255 ∧ (0 : Int) ≤ 31 ∧ (31 : Int) ≤ 31 ∧ (255 : Int) ≤ 255 := by decide
theorem witness_FillStepWritesOneWord :
    ∀ s ∈ [filling, { filling with feIdx := 4 }, { filling with feIdx := 1, feLast := 1 }],
    s.feBusy = true ∧ 1 ≤ s.feIdx ∧ s.feIdx ≤ s.feLast ∧ s.feLast ≤ s.cfg.npix ∧ Memory.wf s := by decide
theorem witness_AFillWritesExactlyItsRangeInAsManySteps :
    ∀ s ∈ [filling, { filling with feIdx := 1 }],
    s.feBusy = true ∧ 1 ≤ s.feIdx ∧ s.feIdx ≤ s.feLast ∧ s.feLast ≤ s.cfg.npix ∧ Memory.wf s := by decide
theorem witness_AReceivedByteIsAppendedOrOverflows :
    (received (List.replicate 599 0#8) 0#16).acc.length < 600 ∧
    600 ≤ (received (List.replicate 600 0#8) 0#16).acc.length := by decide +kernel
theorem witness_ATickCountsAndEvaluatesPastTheThreshold :
    s0.armed = false ∧
    min ((received [0#8] 1999#16).idle.toNat + 1) 65535 ≤ s0.cfg.silenceTicks ∧
    (received [0#8] 2000#16).armed = true ∧
    s0.cfg.silenceTicks < min ((received [0#8] 2000#16).idle.toNat + 1) 65535 := by decide
theorem witness_AValidFrameIsLatched :
    let s := received [0#8, 10#8, 20#8, 30#8, 40#8] 2000#16
    s.armed = true ∧ s.cfg.silenceTicks < min (s.idle.toNat + 1) 65535 ∧
      s.cfg.base + s.cfg.count ≤ s.acc.length ∧ s.acc[0]? = some 0x00#8 := by decide
theorem witness_AnInvalidFrameLeavesNoTrace :
    let s := received [0#8, 10#8, 20#8, 30#8] 2000#16
    let u := received [1#8, 10#8, 20#8, 30#8, 40#8] 2000#16
    (s.armed = true ∧ s.cfg.silenceTicks < min (s.idle.toNat + 1) 65535 ∧
      s.acc.length < s.cfg.base + s.cfg.count) ∧
    (u.armed = true ∧ u.cfg.silenceTicks < min (u.idle.toNat + 1) 65535 ∧ u.acc[0]? ≠ some 0x00#8) := by decide
theorem witness_ASecondTickFollowsTheTransitionTable :
    (s0.cfg.legal ∧ ∀ l ∈ [Link.offline, .online, .timedOut], ∀ n ∈ [0, 29],
      (linked l (BitVec.ofNat 16 n) 0).offsecs.toNat < s0.cfg.timeoutS) ∧
    ((linked .online 0 5).link = .online ∧ 5 ≤ (linked .online 0 5).framecount.toNat) ∧
    (linked .online 0 4).framecount.toNat ≤ 4 ∧
    ((linked .offline 0 1).link ≠ .online ∧ 0 < (linked .offline 0 1).framecount.toNat) ∧
    ((linked .timedOut 28 0).framecount.toNat = 0 ∧ (linked .timedOut 28 0).offsecs.toNat + 1 < s0.cfg.timeoutS) ∧
    s0.cfg.timeoutS ≤ (linked .timedOut 29 0).offsecs.toNat + 1 := by decide
theorem witness_OnlyTheSecondTickAndResetWriteTheLink :
    ends .tbTick s0 = some { s0 with idle := 1#16 } ∧ Instr.tbTick ≠ .secTick ∧ Instr.tbTick ≠ .reset := by decide
theorem witness_SilenceForTheWholeBudgetTimesOut :
    (s0.cfg.legal ∧ s0.framecount = 0 ∧ s0.link ≠ .online ∧ s0.offsecs = 0 ∧ 29 < s0.cfg.timeoutS) ∧
    (linked .online 0 0).framecount = 0 ∧ (linked .online 0 0).link = .online := by decide
theorem witness_TxStartWritesTheMarkersAndBegins :
    (filled.txBusy = false ∧ filled.dirty = true ∧ Memory.wf filled) ∧
    (sending 1 31 0#32).txBusy = true ∧ s0.dirty = false := by decide
theorem witness_TxBitSendsTheNextBit :
    ∀ s ∈ [sending 0 31 0#32, sending 5 0 0xFFFFFFFF#32],
    Memory.wf s ∧ s.txBusy = true ∧ s.txIdx ≤ s.cfg.npix + 1 := by decide
theorem witness_TxEndClearsDirty :
    ((sending 6 31 0#32).txBusy = true ∧ (sending 6 31 0#32).txIdx = s0.cfg.npix + 2) ∧
    s0.txBusy = false ∧ (sending 5 31 0#32).txIdx ≠ s0.cfg.npix + 2 := by decide
theorem witness_TxFaultAbortsAndKeepsDirty :
    (sending 1 31 0#32).txBusy = true ∧ s0.txBusy = false := by decide
theorem witness_OnlyTheTransmitterDrivesTheLine :
    got (fun t => (t.ledData, t.wire)) (exec .txBit (sending 1 31 0#32)) = some (true, [.bit true]) ∧
    (sending 1 31 0#32).ledData = false ∧ (sending 1 31 0#32).wire = [] := by decide

/-- The pixels of a state of this file, checked one by one. -/
theorem pixels_of_all {s : State} (h : ((pixels s).all fun w => decide (isPixelWord w)) = true) :
    ∀ w ∈ pixels s, isPixelWord w := by simpa using h

theorem inv_filled : Inv filled := by
  refine ⟨?_, ?_, ?_, ?_, pixels_of_all ?_, ?_, ?_, ?_, ?_, ?_, ?_⟩ <;> decide +kernel

theorem inv_sending : Inv (sending 1 31 0#32) := by
  refine ⟨?_, ?_, ?_, ?_, pixels_of_all ?_, ?_, ?_, ?_, ?_, ?_, ?_⟩ <;> decide +kernel

theorem inv_filling : Inv (atTurn (.fill true) filling) := by
  refine ⟨?_, ?_, ?_, ?_, pixels_of_all ?_, ?_, ?_, ?_, ?_, ?_, ?_⟩ <;> decide +kernel

theorem inv_received : Inv (received [0#8, 1#8] 5#16) := by
  refine ⟨?_, ?_, ?_, ?_, pixels_of_all ?_, ?_, ?_, ?_, ?_, ?_, ?_⟩ <;> decide +kernel

theorem witness_AWholeTransmissionSendsTheBuffer :
    Inv filled ∧ filled.txBusy = false ∧ filled.dirty = true := ⟨inv_filled, rfl, rfl⟩
theorem witness_ResetGivesEveryElementItsValue :
    s0.cfg.legal ∧ s0.turns = [] ∧ Cycle.rst { busy with rst := true } = true := by decide
theorem witness_ResetLeavesTheSurroundings :
    ends .reset (sending 1 31 0#32) = some { s0 with wire := [.abort] } ∧ ends .reset s1 = some s0 := by
  decide
theorem witness_ResetMeetsTheInvariants : cfg.legal ∧ (Config.standard 1 0).legal ∧ (Config.standard 4094 0).legal := by
  decide
theorem witness_EveryStepKeepsTheInvariants :
    Inv (atTurn (.fill true) filling) ∧ got id (step (atTurn (.fill true) filling)) = some { filling with
      buf := [0#32, 0xE0#32, 0xE0#32, 0xFF0000E3#32, 0xE0#32, 0xFFFFFFFF#32], feIdx := 4 } :=
  ⟨inv_filling, by decide⟩
theorem witness_TheBlockNeverHalts : Inv (sending 1 31 0#32) ∧ Inv (received [0#8, 1#8] 5#16) :=
  ⟨inv_sending, inv_received⟩
theorem witness_AStepRaisesAtMostItsOwnFlag :
    got State.irqFlags (exec (.wrCmd 4#32) s0) = some 0b10000#5 ∧ s0.irqFlags.getLsbD 4 = false ∧
    (0b10000#5).getLsbD 4 = true := by decide
theorem witness_AFlagFallsOnlyByItsWriteOrReset :
    s1.irqFlags.getLsbD 0 = true ∧ got State.irqFlags (exec (.wrIrqFlags 1#32) s1) = some 0b00010#5 ∧
    (0b00010#5).getLsbD 0 = false := by decide
theorem witness_DirtyFallsOnlyAfterAWholeTransmission :
    (sending 6 31 0#32).dirty = true ∧ got State.dirty (exec .txEnd (sending 6 31 0#32)) = some false := by decide
theorem witness_OnlyFillStepsStartsAndResetWriteTheBuffer :
    got (fun t => t.buf[3]?) (exec .fillStep filling) = some (some 0xFF0000E3#32) ∧ filling.buf[3]? = some 0xE0#32 := by decide
theorem witness_OnlyAValidFrameOrResetWritesTheSnapshot :
    got State.snap (exec .tbTick (received [0#8, 10#8, 20#8, 30#8, 40#8] 2000#16)) ≠ some s0.snap := by decide
theorem witness_OnlyTheirOwnOperationsWriteOperandsAndResult :
    got State.argBright (exec (.wrArgBright 1#32) s0) = some 1#32 ∧ s0.argBright = 0#32 ∧
    Instr.wrArgBright 1#32 ≠ .reset := by decide
theorem witness_NoStepChangesTheConfiguration :
    got id (step (atTurn (.event .tb) s0)) = some { s0 with idle := 1#16 } := by decide

end Sys2Proof.Machine.Tests
end

/-! PROOFS. The scope (00_scope.md): no step changes the configuration (R6), and there is a machine exactly for the
legal ones (R8). -/
namespace Sys2Proof.Machine

/-- The state an instruction is fetched on has the configuration of the turn's. -/
theorem sameBlock_cfg {s u : State} (h : sameBlock s u) : u.cfg = s.cfg :=
  (congrArg State.cfg h :)

/-- A turn keeps the configuration: it is fetched on a state with the block's own, and no effect changes it. -/
theorem runTurn_cfg {x : Turn} {s t : State} (h : runTurn x s = .next t) : t.cfg = s.cfg := by
  unfold runTurn at h
  rcases fetch_frame x s with ⟨i, u, hf, hu⟩ | ⟨u, hf, hu⟩ | hf <;> rw [hf] at h
  · calc t.cfg = u.cfg := (exec_effect h).cfg_eq
      _ = s.cfg := sameBlock_cfg hu
  · cases h
    calc (busError u).cfg = u.cfg := rfl
      _ = s.cfg := sameBlock_cfg hu
  · cases h
    rfl

/-- No turn is refused: what it fetches is an instruction, an access answered BusError, or nothing. -/
theorem runTurn_ne_refused (x : Turn) (s : State) (r : Refusal) : runTurn x s ≠ .refused r := by
  unfold runTurn
  rcases fetch_frame x s with ⟨i, u, hf, -⟩ | ⟨u, hf, -⟩ | hf <;> rw [hf]
  · exact exec_ne_refused i u r
  · exact fun h => by cases h
  · exact fun h => by cases h

/-- The machine refuses to step exactly where its configuration is not legal. -/
theorem step_eq_refused_iff (s : State) : step s = .refused .illegalConfig ↔ ¬ s.cfg.legal := by
  refine ⟨fun h hl => ?_, fun hl => if_neg hl⟩
  cases ht : s.turns with
  | nil => rw [step_edge hl ht] at h; cases h
  | cons x xs => exact runTurn_ne_refused x _ _ ((step_turn hl ht).symm.trans h)

/-- Settles O60: the clock edge and every turn keep the configuration. -/
theorem noStepChangesTheConfiguration : Obligations.NoStepChangesTheConfiguration := by
  intro s t h
  obtain ⟨-, ⟨-, rfl⟩ | ⟨x, xs, -, hx⟩⟩ := step_next h
  · exact clockEdge_cfg s
  · exact (runTurn_cfg hx :)

/-- Settles O11: the nine clauses are the ways to miss R7's bounds, and `step` refuses exactly there. -/
theorem anIllegalConfigurationIsRefused : Obligations.AnIllegalConfigurationIsRefused := by
  intro s
  rw [step_eq_refused_iff, Config.legal]
  omega

end Sys2Proof.Machine

/-! PROOFS. The state (10_state.md): the register map (R22), the interrupt output (R28), and who may write each
state element: every statement of the second kind is read off `Effect`, which lists all an instruction can do. -/
namespace Sys2Proof.Machine

/-! ## The register map, R22 -/

theorem offset_aligned_iff (off : Offset) : off.extractLsb' 0 2 = 0b00#2 ↔ off.toNat % 4 = 0 := by
  rw [← BitVec.toNat_inj]
  simp [BitVec.extractLsb'_toNat]

/-- A word of SNAP stands at its offset as far as the window goes. -/
theorem regAt_of_snapOffset {cfg : Config} {off : Offset} {i : Nat} (hc : cfg.count ≤ 1024) (hi : i < cfg.count)
    (ho : off.toNat = 0x1000 + 4 * i) : regAt cfg off = some (.snap (BitVec.ofNat 10 i)) := by
  have hn : (BitVec.ofNat 10 i).toNat = i := by simp; omega
  have hoff : off = (Reg.snap (BitVec.ofNat 10 i)).offset :=
    BitVec.eq_of_toNat_eq (by rw [ho, snapOffset_toNat, hn])
  obtain ⟨-, h12, h2⟩ := snapOffset_fields (BitVec.ofNat 10 i)
  rw [hoff, regAt, if_pos h12, h2, if_pos (by omega)]

/-- A word of PIXBUF stands at its offset as far as the buffer goes. -/
theorem regAt_of_pixbufOffset {cfg : Config} {off : Offset} {i : Nat} (hc : cfg.npix ≤ 4094) (hi : i ≤ cfg.npix + 1)
    (ho : off.toNat = 0x4000 + 4 * i) : regAt cfg off = some (.pixbuf (BitVec.ofNat 12 i)) := by
  have hn : (BitVec.ofNat 12 i).toNat = i := by simp; omega
  have hoff : off = (Reg.pixbuf (BitVec.ofNat 12 i)).offset :=
    BitVec.eq_of_toNat_eq (by rw [ho, pixbufOffset_toNat, hn])
  obtain ⟨-, h14, h2⟩ := pixbufOffset_fields (BitVec.ofNat 12 i)
  rw [hoff, regAt, if_neg (extract_snapField_ne h14), if_pos h14, h2, if_pos (by omega)]

/-- Each row of the map is the first with its offset, which is aligned and below the windows. -/
theorem regTable_find : ∀ row ∈ regTable, row.1 < 0x1000 ∧ row.1 % 4 = 0 ∧
    (regTable.find? fun r => r.1 == row.1).map Prod.snd = some row.2 := by decide

/-- The map of R22 both ways: a register stands at an aligned offset exactly where its window or its row says. -/
theorem regAt_eq_some_iff {cfg : Config} (hl : cfg.legal) {off : Offset} {r : Reg} :
    off.toNat % 4 = 0 ∧ regAt cfg off = some r ↔
      (∃ i, (i < cfg.count ∧ off.toNat = 0x1000 + 4 * i) ∧ r = .snap (BitVec.ofNat 10 i)) ∨
      (∃ i, (i ≤ cfg.npix + 1 ∧ off.toNat = 0x4000 + 4 * i) ∧ r = .pixbuf (BitVec.ofNat 12 i)) ∨
      (off.toNat, r) ∈ regTable := by
  obtain ⟨-, ⟨-, hcount, -⟩, ⟨-, hnpix⟩, -, -⟩ := hl
  constructor
  · rintro ⟨ha, hr⟩
    rcases regAt_cases hr with ⟨i, rfl, hi, hw, hoff⟩ | ⟨i, rfl, hi, hw, hoff⟩ | hrow
    · exact .inl ⟨i.toNat, ⟨hi, by omega⟩, by simp⟩
    · exact .inr (.inl ⟨i.toNat, ⟨hi, by omega⟩, by simp⟩)
    · exact .inr (.inr hrow)
  · rintro (⟨i, ⟨hi, ho⟩, rfl⟩ | ⟨i, ⟨hi, ho⟩, rfl⟩ | hrow)
    · exact ⟨by omega, regAt_of_snapOffset (by omega) hi ho⟩
    · exact ⟨by omega, regAt_of_pixbufOffset hnpix hi ho⟩
    · obtain ⟨hlow, ha, hf⟩ := regTable_find _ hrow
      exact ⟨ha, (regAt_eq_regTable cfg hlow).trans hf⟩

/-- An access is an instruction exactly when the map has an aligned register there with its direction. -/
theorem exists_checkAccess_eq_instr {cfg : Config} {width : Nat} {off : Offset} {pick : Reg → Option Instr} :
    (∃ i, checkAccess cfg width off pick = .instr i) ↔
      width = 32 ∧ ∃ r, (off.toNat % 4 = 0 ∧ regAt cfg off = some r) ∧ (pick r).isSome := by
  simp only [checkAccess_eq_instr, offset_aligned_iff, Option.isSome_iff_exists]
  constructor
  · rintro ⟨i, hw, ha, r, hr, hi⟩
    exact ⟨hw, r, ⟨ha, hr⟩, i, hi⟩
  · rintro ⟨hw, r, ⟨ha, hr⟩, i, hi⟩
    exact ⟨i, hw, ha, r, hr, hi⟩

/-- The rows with a read are those `readable` lists, and both windows have one. -/
theorem exists_readInstr_iff {cfg : Config} (hl : cfg.legal) (off : Offset) :
    (∃ r, (off.toNat % 4 = 0 ∧ regAt cfg off = some r) ∧ (readInstr r).isSome) ↔ readable cfg off := by
  simp only [regAt_eq_some_iff hl, or_and_right, exists_or]
  have hrows : (∃ r, (off.toNat, r) ∈ regTable ∧ (readInstr r).isSome) ↔
      off.toNat ∈ [0x000, 0x004, 0x008, 0x00C, 0x010, 0x014, 0x018, 0x020, 0x024, 0x028, 0x02C, 0x030,
        0x034, 0x038, 0x040, 0x044, 0x048, 0x04C, 0x050, 0x054, 0x05C] := by
    simp [regTable, or_and_right, exists_or, and_assoc, readInstr]
  rw [hrows, readable]
  constructor
  · rintro (⟨r, ⟨i, hi, -⟩, -⟩ | ⟨r, ⟨i, hi, -⟩, -⟩ | hrow)
    exacts [.inr (.inl ⟨i, hi⟩), .inr (.inr ⟨i, hi⟩), .inl hrow]
  · rintro (hrow | ⟨i, hi⟩ | ⟨i, hi⟩)
    exacts [.inr (.inr hrow), .inl ⟨_, ⟨i, hi, rfl⟩, rfl⟩, .inr (.inl ⟨_, ⟨i, hi, rfl⟩, rfl⟩)]

/-- The rows with a write are those `writable` lists, and no window has one. -/
theorem exists_writeInstr_iff {cfg : Config} (hl : cfg.legal) (off : Offset) (d : Word) :
    (∃ r, (off.toNat % 4 = 0 ∧ regAt cfg off = some r) ∧ (writeInstr d r).isSome) ↔ writable off := by
  simp only [regAt_eq_some_iff hl, or_and_right, exists_or]
  have hrows : (∃ r, (off.toNat, r) ∈ regTable ∧ (writeInstr d r).isSome) ↔ writable off := by
    simp [regTable, or_and_right, exists_or, and_assoc, writeInstr]
  rw [hrows]
  constructor
  · rintro (⟨r, ⟨i, -, rfl⟩, h⟩ | ⟨r, ⟨i, -, rfl⟩, h⟩ | hrow)
    exacts [absurd h Bool.false_ne_true, absurd h Bool.false_ne_true, hrow]
  · exact fun hrow => .inr (.inr hrow)

/-- What is decoded is refused exactly when it is no instruction. -/
theorem exists_busError_iff (x : Decoded) : (∃ c, x = .busError c) ↔ ¬ ∃ i, x = .instr i := by
  cases x <;> simp

/-- Settles O5: an access is an instruction where the map has a register with its direction (R22), and is refused
everywhere else (R100). -/
theorem anAccessIsRefusedExactlyWhenTheCheckFails : Obligations.AnAccessIsRefusedExactlyWhenTheCheckFails := by
  intro cfg width off d hl
  have hread : (∃ i, decode cfg (.host (.read width off)) = .instr i) ↔ width = 32 ∧ readable cfg off :=
    exists_checkAccess_eq_instr.trans (and_congr_right' (exists_readInstr_iff hl off))
  have hwrite : (∃ i, decode cfg (.host (.write width off d)) = .instr i) ↔ width = 32 ∧ writable off :=
    exists_checkAccess_eq_instr.trans (and_congr_right' (exists_writeInstr_iff hl off d))
  refine ⟨hread, hwrite, ?_, ?_⟩
  · rw [exists_busError_iff, hread, not_and_or]
  · rw [exists_busError_iff, hwrite, not_and_or]

variable {i : Instr} {s t : State}

/-! ## The flags and the interrupt output, R25 to R28 -/

/-- The bits of `irq`'s mask, one for each flag (R28). -/
theorem irq_eq_true_iff (s : State) :
    s.irq = true ↔ ∃ k, k < 5 ∧ s.irqFlags.getLsbD k = true ∧ s.irqEn.getLsbD k = true := by
  rw [State.irq, bne_iff_ne, ne_eq, BitVec.eq_of_getLsbD_eq_iff]
  simp

/-- Settles O23: the mask is not 0 exactly where one of its bits is 1. -/
theorem irqIsTheOrOfTheEnabledFlags : Obligations.IrqIsTheOrOfTheEnabledFlags := by
  refine ⟨irq_eq_true_iff, fun s t hf he => ?_, fun cfg => ?_⟩
  · rw [State.irq, State.irq, hf, he]
  · simp [State.irq, State.resetOf]

/-- Setting a flag lowers none (R27). -/
theorem setFlag_keeps_bit (f : Flag) {k : Nat} (h : s.irqFlags.getLsbD k = true) :
    (setFlag f s).irqFlags.getLsbD k = true := by
  rw [setFlag_irqFlags, BitVec.getLsbD_or, h, Bool.true_or]

/-- WR IRQ_FLAGS lowers the flags whose bit is 1 in its data word, and no other (R103). -/
theorem clearFlags_bit (d : Word) (s : State) {k : Nat} (hk : k < 5) :
    (clearFlags d s).irqFlags.getLsbD k = (s.irqFlags.getLsbD k && !d.getLsbD k) := by
  simp [hk]

/-- The flags after an instruction: as before, one flag more, those its write clears fewer, or RESET's. -/
theorem Effect.irqFlags_cases (h : Effect i s t) :
    t.irqFlags = s.irqFlags ∨ (∃ f, t.irqFlags = (setFlag f s).irqFlags) ∨
      (∃ d, i = .wrIrqFlags d ∧ t.irqFlags = (clearFlags d s).irqFlags) ∨ i = .reset := by
  cases h with
  | irqFlags d => exact .inr (.inr (.inl ⟨d, rfl, rfl⟩))
  | command hi hb =>
    rcases cmdEffect_irqFlags s _ with hc | ⟨-, hc⟩
    · exact .inl hc
    · exact .inr (.inl ⟨.cmderr, hc⟩)
  | discard => exact .inr (.inl ⟨.ovf, rfl⟩)
  | latch => exact .inr (.inl ⟨.chupd, rfl⟩)
  | transition => exact .inr (.inl ⟨.linkchg, rfl⟩)
  | txFault => exact .inr (.inl ⟨.txerr, rfl⟩)
  | reset => exact .inr (.inr (.inr rfl))
  | resetAbort => exact .inr (.inr (.inr rfl))
  | _ => exact .inl (by simp)

/-- Settles O55: of the four ways the flags can change, only the write of IRQ_FLAGS and RESET lower a bit. -/
theorem aFlagFallsOnlyByItsWriteOrReset : Obligations.AFlagFallsOnlyByItsWriteOrReset := by
  intro i s t k h hk hs ht
  rcases (exec_effect h).irqFlags_cases with he | ⟨f, he⟩ | ⟨d, hi, he⟩ | hi
  · rw [he, hs] at ht; cases ht
  · rw [he, setFlag_keeps_bit f hs] at ht; cases ht
  · rw [he, clearFlags_bit d s hk, hs] at ht
    exact .inl ⟨d, hi, by simpa using ht⟩
  · exact .inr hi

/-! ## One writer for each element -/

/-- The end of a fill sets dirty, and nothing of the fill clears it (R158). -/
theorem fillAdvance_dirty (h : s.dirty = true) : (fillAdvance s).dirty = true := by
  unfold fillAdvance
  split
  · rfl
  · exact h

/-- The ways dirty can be after an instruction that found it set (R43). -/
theorem Effect.dirty_cases (h : Effect i s t) (hd : s.dirty = true) :
    t.dirty = true ∨ (i = .txEnd ∧ s.txBusy = true ∧ s.txIdx = s.cfg.npix + 2) ∨ i = .reset := by
  cases h with
  | command => exact .inl (cmdEffect_dirty s _ hd)
  | fillStep => exact .inl (fillAdvance_dirty hd)
  | txEnd hb hi => exact .inr (.inl ⟨rfl, hb, hi⟩)
  | reset => exact .inr (.inr rfl)
  | resetAbort => exact .inr (.inr rfl)
  | _ => exact .inl (by simp [hd])

/-- Settles O56, by the cases of dirty. -/
theorem dirtyFallsOnlyAfterAWholeTransmission : Obligations.DirtyFallsOnlyAfterAWholeTransmission := by
  intro i s t h hs ht
  exact ((exec_effect h).dirty_cases hs).resolve_left (by simp [ht])

/-- The buffer after an instruction (R38, R151). -/
theorem Effect.buf_cases (h : Effect i s t) :
    t.buf = s.buf ∨
      (i = .fillStep ∧ s.feBusy = true ∧ s.feIdx < s.buf.length ∧ t.buf = s.buf.set s.feIdx s.feWord) ∨
      (i = .txStart ∧ t.buf = (withMarkers s).buf) ∨ i = .reset := by
  cases h with
  | fillStep hb hr hl => exact .inr (.inl ⟨rfl, hb, hl, by simp⟩)
  | txStart => exact .inr (.inr (.inl ⟨rfl, rfl⟩))
  | reset => exact .inr (.inr (.inr rfl))
  | resetAbort => exact .inr (.inr (.inr rfl))
  | _ => exact .inl (by simp)

/-- Writing the markers leaves every other word (R201). -/
theorem withMarkers_getElem? {j : Nat} (h0 : j ≠ 0) (he : j ≠ s.cfg.npix + 1) :
    (withMarkers s).buf[j]? = s.buf[j]? := by
  rw [withMarkers, List.getElem?_set_ne he.symm, List.getElem?_set_ne h0.symm]

/-- Settles O57: of the three writers of the buffer, a fill step reaches its index and a start the two markers. -/
theorem onlyFillStepsStartsAndResetWriteTheBuffer : Obligations.OnlyFillStepsStartsAndResetWriteTheBuffer := by
  intro i s t j h hj
  rcases (exec_effect h).buf_cases with hb | ⟨hi, hf, hl, hb⟩ | ⟨hi, hb⟩ | hi
  · exact absurd (by rw [hb]) hj
  · rw [hb] at hj ⊢
    by_cases hidx : s.feIdx = j
    · subst hidx
      exact .inl ⟨hi, hf, rfl, List.getElem?_set_self hl⟩
    · exact absurd (List.getElem?_set_ne hidx) hj
  · refine .inr (.inl ⟨hi, ?_⟩)
    by_contra hn
    rw [not_or] at hn
    exact hj (by rw [hb, withMarkers_getElem? hn.1 hn.2])
  · exact .inr (.inr hi)

/-- A frame is valid when it covers the window and its start code is 0 (R186). -/
theorem frameValid_iff {cfg : Config} {acc : List Byte} :
    frameValid cfg acc = true ↔ cfg.base + cfg.count ≤ acc.length ∧ acc[0]? = some 0x00#8 := by
  simp [frameValid, List.head?_eq_getElem?]

/-- The snapshot after an instruction: as before, a valid frame's, or RESET's (R37). -/
theorem Effect.snap_cases (h : Effect i s t) :
    t.snap = s.snap ∨
      (i = .tbTick ∧ frameValid s.cfg s.acc = true ∧ t = consumeAcc (Machine.latch (countTick s))) ∨ i = .reset := by
  cases h with
  | latch ha hv => exact .inr (.inl ⟨rfl, hv, rfl⟩)
  | reset => exact .inr (.inr rfl)
  | resetAbort => exact .inr (.inr rfl)
  | _ => exact .inl (by simp)

/-- A valid frame raises CHUPD (R187). -/
theorem latch_raises_chupd (s : State) : (latch s).irqFlags.getLsbD 0 = true := by
  simp [Flag.bit]

/-- Settles O58: the one step that writes the snapshot is the latch of a valid frame. -/
theorem onlyAValidFrameOrResetWritesTheSnapshot : Obligations.OnlyAValidFrameOrResetWritesTheSnapshot := by
  intro i s t h hs
  rcases (exec_effect h).snap_cases with he | ⟨hi, hv, rfl⟩ | hi
  · exact absurd he hs
  · obtain ⟨hlen, hstart⟩ := frameValid_iff.mp hv
    exact .inl ⟨hi, hlen, hstart, latch_raises_chupd (countTick s), rfl⟩
  · exact .inr hi

/-- The one word that is ENCODE (R80). -/
theorem word_of_decodeCmd_encode {v : Word} (h : decodeCmd v = .encode) : v = 0x00000003#32 := by
  rcases decodeCmd_cases v with ⟨-, hc⟩ | ⟨-, hc⟩ | ⟨-, hc⟩ | ⟨hv, -⟩ | ⟨o, -, -, hc⟩ | ⟨r, x, -, -, hc⟩
  case inr.inr.inr.inl => exact hv
  all_goals rw [h] at hc; cases hc

/-- ENCODE is a row of its own, and the word 3 written to CMD. -/
theorem IsCommand.encode_cases {v : Word} {c : Cmd} (h : IsCommand i v c) (hc : c = .encode) :
    i = .encodeCmd ∨ i = .wrCmd 0x00000003#32 := by
  cases h with
  | encode => exact .inl rfl
  | wrCmd => exact .inr (by rw [word_of_decodeCmd_encode hc])
  | _ => cases hc

/-- ENC_RESULT after an instruction (R36). -/
theorem Effect.encResult_cases (h : Effect i s t) :
    t.encResult = s.encResult ∨ i = .encodeCmd ∨ i = .wrCmd 0x00000003#32 ∨ i = .reset := by
  cases h with
  | @command _ v c _ hi =>
    by_cases hc : c = .encode
    · exact .inr ((hi.encode_cases hc).imp_right .inl)
    · exact .inl (cmdEffect_encResult s c hc)
  | reset => exact .inr (.inr (.inr rfl))
  | resetAbort => exact .inr (.inr (.inr rfl))
  | _ => exact .inl (by simp)

/-- Each operand register after an instruction other than RESET: as before, or its own write's (R34). -/
theorem Effect.operands_cases (h : Effect i s t) (hr : i ≠ .reset) :
    (t.argBright = s.argBright ∨ ∃ d, i = .wrArgBright d) ∧ (t.argRed = s.argRed ∨ ∃ d, i = .wrArgRed d) ∧
    (t.argGreen = s.argGreen ∨ ∃ d, i = .wrArgGreen d) ∧ (t.argBlue = s.argBlue ∨ ∃ d, i = .wrArgBlue d) ∧
    (t.argFirst = s.argFirst ∨ ∃ d, i = .wrArgFirst d) ∧ (t.argLast = s.argLast ∨ ∃ d, i = .wrArgLast d) := by
  cases h with
  | reset => exact absurd rfl hr
  | resetAbort => exact absurd rfl hr
  | _ => simp

/-- Settles O59, by the cases of the operand registers and of ENC_RESULT. -/
theorem onlyTheirOwnOperationsWriteOperandsAndResult : Obligations.OnlyTheirOwnOperationsWriteOperandsAndResult := by
  intro i s t h hr
  obtain ⟨hbright, hred, hgreen, hblue, hfirst, hlast⟩ := (exec_effect h).operands_cases hr
  refine ⟨hbright.resolve_left, hred.resolve_left, hgreen.resolve_left, hblue.resolve_left, hfirst.resolve_left,
    hlast.resolve_left, fun hne => ?_⟩
  rcases (exec_effect h).encResult_cases with he | hi | hi | hi
  exacts [absurd he hne, .inl hi, .inr hi, absurd hi hr]

/-! ## The LED lines, R46 -/

/-- The lines after an instruction: as before, or the transmitter's or RESET's. -/
theorem Effect.led_cases (h : Effect i s t) :
    (t.ledClk = s.ledClk ∧ t.ledData = s.ledData) ∨ i = .txBit ∨ i = .txEnd ∨ i = .txFault ∨ i = .reset := by
  cases h with
  | txBit => exact .inr (.inl rfl)
  | txEnd => exact .inr (.inr (.inl rfl))
  | txFault => exact .inr (.inr (.inr (.inl rfl)))
  | reset => exact .inr (.inr (.inr (.inr rfl)))
  | resetAbort => exact .inr (.inr (.inr (.inr rfl)))
  | _ => exact .inl (by simp)

/-- What an instruction puts on the wire (R200, R205): nothing, a start while dirty, or a bit or an abort during a
transmission. -/
theorem Effect.wire_cases (h : Effect i s t) :
    t.wire = s.wire ∨
      (i = .txStart ∧ s.dirty = true ∧ s.txBusy = false ∧ t.wire = s.wire ++ [.start]) ∨
      (i = .txBit ∧ s.txBusy = true ∧ ∃ b, t.wire = s.wire ++ [.bit b]) ∨
      ((i = .txFault ∨ i = .reset) ∧ s.txBusy = true ∧ t.wire = s.wire ++ [.abort]) := by
  cases h with
  | txStart hb hd => exact .inr (.inl ⟨rfl, hd, hb, rfl⟩)
  | txBit hb => exact .inr (.inr (.inl ⟨rfl, hb, _, txAdvance_wire _⟩))
  | txFault hb => exact .inr (.inr (.inr ⟨.inl rfl, hb, rfl⟩))
  | resetAbort hb => exact .inr (.inr (.inr ⟨.inr rfl, hb, rfl⟩))
  | _ => exact .inl (by simp)

/-- Settles O47, by the cases of the two lines and of the wire. -/
theorem onlyTheTransmitterDrivesTheLine : Obligations.OnlyTheTransmitterDrivesTheLine := by
  intro i s t h
  refine ⟨fun hled => (exec_effect h).led_cases.resolve_left ?_, (exec_effect h).wire_cases.resolve_left⟩
  rintro ⟨hclk, hdata⟩
  exact hled.elim (· hclk) (· hdata)

/-! ## Set and cleared in one clock cycle, R27 -/

/-- An armed receiver whose idle count has reached the threshold latches a valid frame (R184 to R187). -/
theorem execTbTick_latch (hl : s.cfg.legal) (ha : s.armed = true) (hi : s.cfg.silenceTicks ≤ s.idle.toNat)
    (hv : frameValid s.cfg s.acc = true) :
    execTbTick s = .next (consumeAcc (latch (countTick s))) := by
  obtain ⟨-, -, -, ⟨-, hticks⟩, -⟩ := hl
  have hsilent : s.cfg.silenceTicks < (countTick s).idle.toNat := by
    rw [countTick_idle, satInc16_toNat]
    omega
  have heval : evaluate (countTick s) = consumeAcc (latch (countTick s)) := if_pos hv
  rw [execTbTick, ha, decide_eq_true hsilent, Bool.and_self, if_pos rfl, heval]

/-- The host's turn runs its next operation, decoded, where no CMD write waits (20_memory.md R73). -/
theorem step_host_op {xs : List Turn} {op : HostOp} {ops : List HostOp} (hl : s.cfg.legal)
    (ht : s.turns = .host true :: xs) (hw : s.cmdWait = none) (hq : s.hostQueue = op :: ops)
    (hd : decode s.cfg (.host op) = .instr i) :
    step s = exec i { s with turns := xs, hostQueue := ops } := by
  rw [step_turn hl ht]
  simp [runTurn, fetch, fetchHost, fetchOp, runFetched, hw, hq, hd]

/-- The turn of a time-base tick with which an armed receiver latches. -/
theorem step_tb_latch {xs : List Turn} (hl : s.cfg.legal) (ht : s.turns = .event .tb :: xs) (ha : s.armed = true)
    (hi : s.cfg.silenceTicks ≤ s.idle.toNat) (hv : frameValid s.cfg s.acc = true) :
    step s = .next (consumeAcc (latch (countTick { s with turns := xs }))) :=
  (step_turn hl ht).trans (execTbTick_latch (s := { s with turns := xs }) hl ha hi hv)

/-- R241's order at work: the host's write to IRQ_FLAGS comes first, the receiver latches on what it left. -/
theorem run_wrIrqFlags_then_latch {xs : List Turn} {d : Word} {ops : List HostOp} (hl : s.cfg.legal)
    (ht : s.turns = .host true :: .event .tb :: xs) (hw : s.cmdWait = none)
    (hq : s.hostQueue = .write 32 0x004#15 d :: ops) (ha : s.armed = true)
    (hi : s.cfg.silenceTicks ≤ s.idle.toNat) (hv : frameValid s.cfg s.acc = true) :
    core.run 2 s = .next (consumeAcc (latch (countTick
      (respond .ack (clearFlags d { s with turns := xs, hostQueue := ops }))))) := by
  have hdec : decode s.cfg (.host (.write 32 0x004#15 d)) = .instr (.wrIrqFlags d) :=
    Laws.RoundTrip.wrIrqFlags d s.cfg rfl
  have hwrite : step s =
      .next (respond .ack (clearFlags d { s with turns := .event .tb :: xs, hostQueue := ops })) :=
    step_host_op hl ht hw hq hdec
  refine (core_run_succ hwrite).trans (core_run_succ (step_tb_latch ?_ rfl ?_ ?_ ?_))
  exacts [hl, ha, hi, hv]

/-- A cycle without RESET and without a byte, with a host access and a time-base tick, begins with these two (R241). -/
theorem clockEdge_turns_host_tb {c : Cycle} {cs : List Cycle} (hc : s.cycles = c :: cs) (hr : c.rst = false)
    (hh : c.host = true) (hx : c.rx = none) (ht : c.tb = true) :
    ∃ xs, (clockEdge s).turns = .host true :: .event .tb :: xs := by
  simp [clockEdge, Cycle.turns, hc, hr, hh, hx, ht]

/-- Settles O13: the flag is set after it is cleared, so it stays set. -/
theorem aFlagSetInTheCycleOfItsClearingStaysSet : Obligations.AFlagSetInTheCycleOfItsClearingStaysSet := by
  intro s c cs ops d hl hturns hcycles hwait hqueue hrst hhost hrx htb harmed hidle hlen hstart
  obtain ⟨xs, hxs⟩ := clockEdge_turns_host_tb hcycles hrst hhost hrx htb
  have hvalid : frameValid s.cfg s.acc = true := frameValid_iff.mpr ⟨hlen, hstart⟩
  have hrun := run_wrIrqFlags_then_latch (s := clockEdge s) (by rwa [clockEdge_cfg]) hxs (by simpa) (by simpa)
    (by simpa) (by simpa) (by simpa)
  refine ⟨_, (core_run_succ (step_edge hl hturns)).trans hrun, latch_raises_chupd _, ?_, ?_⟩
  · simp
  · simp [Flag.bit]

end Sys2Proof.Machine

/-! PROOFS. The address space and the order of accesses (20_memory.md): a step at the host's turn (R73, R241). -/
namespace Sys2Proof.Machine

/-- Settles O7: with no CMD write waiting, the host's turn fetches the head of its queue and runs what that decodes to. -/
theorem aStepRunsTheHostsNextOperation : Obligations.AStepRunsTheHostsNextOperation := by
  intro s op ops ts i hlegal hwait hturns hqueue hdecode
  exact step_host_op hlegal hturns hwait hqueue hdecode

end Sys2Proof.Machine

/-! PROOFS. The encoding (30_encoding.md): decoder and encoder are inverse to each other (R80, R81, R90, R91), the
command words (R81), the pixel word (R84, R85), and the step at an event's turn (R90). -/
namespace Sys2Proof.Machine

open Laws

/-! ## Decoding what is encoded -/

/-- The family RoundTrip as one statement: every row of the instruction set has its law. -/
theorem decode_encode : ∀ i : Instr, RoundTrip.Statement i
  | .nop => RoundTrip.nop
  | .fill => RoundTrip.fill
  | .clear => RoundTrip.clear
  | .encodeCmd => RoundTrip.encodeCmd
  | .reservedOp o => RoundTrip.reservedOp o
  | .reservedRsv r x => RoundTrip.reservedRsv r x
  | .rdStatus => RoundTrip.rdStatus
  | .rdIrqFlags => RoundTrip.rdIrqFlags
  | .wrIrqFlags d => RoundTrip.wrIrqFlags d
  | .rdIrqEn => RoundTrip.rdIrqEn
  | .wrIrqEn d => RoundTrip.wrIrqEn d
  | .rdFramecount => RoundTrip.rdFramecount
  | .rdOffsecs => RoundTrip.rdOffsecs
  | .rdSnapseq => RoundTrip.rdSnapseq
  | .rdAcclen => RoundTrip.rdAcclen
  | .rdCfgBase => RoundTrip.rdCfgBase
  | .rdCfgCount => RoundTrip.rdCfgCount
  | .rdCfgNpix => RoundTrip.rdCfgNpix
  | .rdCfgSilence => RoundTrip.rdCfgSilence
  | .rdCfgTimeout => RoundTrip.rdCfgTimeout
  | .rdCfgStartMarker => RoundTrip.rdCfgStartMarker
  | .rdCfgEndMarker => RoundTrip.rdCfgEndMarker
  | .rdArgBright => RoundTrip.rdArgBright
  | .wrArgBright d => RoundTrip.wrArgBright d
  | .rdArgRed => RoundTrip.rdArgRed
  | .wrArgRed d => RoundTrip.wrArgRed d
  | .rdArgGreen => RoundTrip.rdArgGreen
  | .wrArgGreen d => RoundTrip.wrArgGreen d
  | .rdArgBlue => RoundTrip.rdArgBlue
  | .wrArgBlue d => RoundTrip.wrArgBlue d
  | .rdArgFirst => RoundTrip.rdArgFirst
  | .wrArgFirst d => RoundTrip.wrArgFirst d
  | .rdArgLast => RoundTrip.rdArgLast
  | .wrArgLast d => RoundTrip.wrArgLast d
  | .wrCmd v => RoundTrip.wrCmd v
  | .rdEncResult => RoundTrip.rdEncResult
  | .rdSnap i => RoundTrip.rdSnap i
  | .rdPixbuf i => RoundTrip.rdPixbuf i
  | .rxByte b => RoundTrip.rxByte b
  | .tbTick => RoundTrip.tbTick
  | .secTick => RoundTrip.secTick
  | .txFault => RoundTrip.txFault
  | .reset => RoundTrip.reset
  | .fillStep => RoundTrip.fillStep
  | .txStart => RoundTrip.txStart
  | .txBit => RoundTrip.txBit
  | .txEnd => RoundTrip.txEnd

/-- Settles O1, by the instruction's own law of the family RoundTrip. -/
theorem decodingAnEncodedInstructionGivesItBack : Obligations.DecodingAnEncodedInstructionGivesItBack :=
  fun cfg i h => decode_encode i cfg h

/-- Settles O4: each accepted word is the encoding of its row, and the refused offset lies past the last of the six
words of PIXBUF. -/
theorem wordsOfTheTableDecodeToTheirRows : Obligations.WordsOfTheTableDecodeToTheirRows := by
  intro blockBase cfg
  exact ⟨RoundTrip.fill cfg rfl, RoundTrip.reservedRsv 1#28 1#4 cfg rfl, RoundTrip.rdEncResult cfg rfl,
    RoundTrip.wrArgLast 0xFFFFFFF9#32 cfg rfl, RoundTrip.rdSnap 4#10 cfg rfl, RoundTrip.rdPixbuf 5#12 cfg rfl, rfl,
    RoundTrip.rxByte 0xA5#8 cfg rfl⟩

/-! ## Encoding what is decoded -/

section
variable {cfg : Config} {off : Offset} {r : Reg} {i : Instr}

theorem encode_readInstr (h : readInstr r = some i) : encode i = readOf r := by
  cases r <;> cases h <;> rfl

theorem encode_writeInstr {d : Word} (h : writeInstr d r = some i) : encode i = writeOf r d := by
  cases r <;> cases h <;> rfl

/-- A row of the map below the windows has no index to bound. -/
theorem wellFormed_readInstr_row {n : Nat} (hrow : (n, r) ∈ regTable) (hi : readInstr r = some i) :
    i.wellFormed cfg = true := by
  cases r with
  | snap k => simp [regTable] at hrow
  | pixbuf k => simp [regTable] at hrow
  | _ => cases hi <;> rfl

/-- The read of a register the map has is well formed: a window's index lies inside its window (R22, R62). -/
theorem wellFormed_readInstr (hr : regAt cfg off = some r) (hi : readInstr r = some i) : i.wellFormed cfg = true := by
  rcases regAt_cases hr with ⟨k, rfl, hk, -, -⟩ | ⟨k, rfl, hk, -, -⟩ | hrow
  · cases hi
    exact decide_eq_true hk
  · cases hi
    exact decide_eq_true hk
  · exact wellFormed_readInstr_row hrow hi

/-- A write is well formed wherever it goes: no window has one. -/
theorem wellFormed_writeInstr {d : Word} (h : writeInstr d r = some i) : i.wellFormed cfg = true := by
  cases r <;> cases h <;> rfl

end

/-- A command word is the encoding of the row it decodes to, whose operands are in their ranges (R81). -/
theorem encode_decodeCmd (cfg : Config) (v : Word) :
    encode (decodeCmd v).instr = .host (.command v) ∧ (decodeCmd v).instr.wellFormed cfg = true := by
  rcases decodeCmd_cases v with ⟨rfl, h⟩ | ⟨rfl, h⟩ | ⟨rfl, h⟩ | ⟨rfl, h⟩ | ⟨o, ho, rfl, h⟩ | ⟨r, x, hr, rfl, h⟩ <;>
    rw [h]
  exacts [⟨rfl, rfl⟩, ⟨rfl, rfl⟩, ⟨rfl, rfl⟩, ⟨rfl, rfl⟩, ⟨rfl, decide_eq_true ho⟩, ⟨rfl, decide_eq_true hr⟩]

/-- An event is the encoding of what it stands for (R90). -/
theorem encode_decodeEvent (cfg : Config) (e : Event) :
    encode (decodeEvent e) = .event e ∧ (decodeEvent e).wellFormed cfg = true := by
  cases e <;> exact ⟨rfl, rfl⟩

/-- Settles O2, by the kind of signal: an access that passes the check of R100 stands at its register's own offset. -/
theorem encodingADecodedSignalGivesItBack : Obligations.EncodingADecodedSignalGivesItBack := by
  intro cfg sig i h
  match sig with
  | .host (.read width off) =>
    obtain ⟨rfl, ha, r, hr, hi⟩ := checkAccess_eq_instr.mp h
    obtain rfl := offset_of_regAt ha hr
    exact ⟨encode_readInstr hi, wellFormed_readInstr hr hi⟩
  | .host (.write width off d) =>
    obtain ⟨rfl, ha, r, hr, hi⟩ := checkAccess_eq_instr.mp h
    obtain rfl := offset_of_regAt ha hr
    exact ⟨encode_writeInstr hi, wellFormed_writeInstr hi⟩
  | .host (.command v) =>
    cases h
    exact encode_decodeCmd cfg v
  | .event e =>
    cases h
    exact encode_decodeEvent cfg e

/-! ## The command words, R81 -/

/-- The kinds of command word, by the word's value: RSV is its upper 28 bits, OP its lower four (R80). -/
theorem decodeCmd_value_cases (v : Word) :
    (v.toNat = 0 ∧ decodeCmd v = .nop) ∨ (v.toNat = 1 ∧ decodeCmd v = .fill) ∨
    (v.toNat = 2 ∧ decodeCmd v = .clear) ∨ (v.toNat = 3 ∧ decodeCmd v = .encode) ∨
    ((4 ≤ v.toNat ∧ v.toNat < 16) ∧ ∃ o, decodeCmd v = .reservedOp o) ∨
    (16 ≤ v.toNat ∧ ∃ r x, decodeCmd v = .reservedRsv r x) := by
  rcases decodeCmd_cases v with ⟨rfl, h⟩ | ⟨rfl, h⟩ | ⟨rfl, h⟩ | ⟨rfl, h⟩ | ⟨o, ho, hv, h⟩ | ⟨r, x, hr, hv, h⟩
  · exact .inl ⟨rfl, h⟩
  · exact .inr (.inl ⟨rfl, h⟩)
  · exact .inr (.inr (.inl ⟨rfl, h⟩))
  · exact .inr (.inr (.inr (.inl ⟨rfl, h⟩)))
  · have hn : v.toNat = o.toNat := by rw [hv, toNat_append_add]; simp
    exact .inr (.inr (.inr (.inr (.inl ⟨by omega, o, h⟩))))
  · have hn : v.toNat = r.toNat * 2 ^ 4 + x.toNat := by rw [hv, toNat_append_add]
    have hpos : r.toNat ≠ 0 := BitVec.toNat_ne_iff_ne.mpr hr
    exact .inr (.inr (.inr (.inr (.inr ⟨by omega, r, x, h⟩))))

/-- Settles O3: each kind of word has its own range of values, and the ranges leave no value out. -/
theorem exactlyFourWordsAreCommands : Obligations.ExactlyFourWordsAreCommands := by
  intro v
  simp only [← BitVec.toNat_inj, BitVec.toNat_ofNat]
  rcases decodeCmd_value_cases v with ⟨hv, h⟩ | ⟨hv, h⟩ | ⟨hv, h⟩ | ⟨hv, h⟩ | ⟨hv, o, h⟩ | ⟨hv, r, x, h⟩
  all_goals
    simp only [h, reduceCtorEq, Cmd.reservedOp.injEq, Cmd.reservedRsv.injEq, exists_and_left, exists_eq', exists_const,
      and_true, true_iff, false_iff]
    omega

/-! ## The pixel word, R84, R85 -/

theorem clamp_eq_self {v hi : Int} (h0 : 0 ≤ v) (h : v ≤ hi) : clamp v 0 hi = v := by
  rw [clamp, max_eq_left h0, min_eq_left h]

/-- The clamped operands fill their fields without a carry, so each is read back from its place. -/
theorem encodePixel_fields (b r g bl : Int) :
    ((encodePixel b r g bl).toNat / 2 ^ 24 : Int) = clamp r 0 255 ∧
    ((encodePixel b r g bl).toNat / 2 ^ 16 % 256 : Int) = clamp bl 0 255 ∧
    ((encodePixel b r g bl).toNat / 2 ^ 8 % 256 : Int) = clamp g 0 255 ∧
    ((encodePixel b r g bl).toNat / 2 ^ 5 % 8 : Int) = 7 ∧
    ((encodePixel b r g bl).toNat % 32 : Int) = clamp b 0 31 := by
  obtain ⟨hr0, hr⟩ := clamp_bounds r (hi := 255) (by decide)
  obtain ⟨hbl0, hbl⟩ := clamp_bounds bl (hi := 255) (by decide)
  obtain ⟨hg0, hg⟩ := clamp_bounds g (hi := 255) (by decide)
  obtain ⟨hb0, hb⟩ := clamp_bounds b (hi := 31) (by decide)
  rw [encodePixel_toNat]
  refine ⟨?_, ?_, ?_, ?_, ?_⟩ <;> omega

/-- Settles O31: the fields are the operands, and clamping is the minimum of a maximum. -/
theorem aPixelWordCarriesItsClampedOperands : Obligations.APixelWordCarriesItsClampedOperands :=
  encodePixel_fields

/-- The marker bits as a number. -/
theorem isPixelWord_iff_toNat (w : Word) : isPixelWord w ↔ w.toNat / 2 ^ 5 % 8 = 7 := by
  rw [isPixelWord, ← BitVec.toNat_inj]
  simp [pixelMarker, BitVec.extractLsb'_toNat, Nat.shiftRight_eq_div_pow]

/-- A pixel word is the encoding of its own fields. -/
theorem eq_encodePixel_of_isPixelWord {w : Word} (h : isPixelWord w) :
    w = encodePixel (pixelBrightness w).toNat (pixelRed w).toNat (pixelGreen w).toNat (pixelBlue w).toNat := by
  have hmarker := (isPixelWord_iff_toNat w).mp h
  apply BitVec.eq_of_toNat_eq
  zify
  rw [encodePixel_toNat]
  iterate 4 rw [clamp_eq_self (by omega) (by omega)]
  simp [pixelBrightness, pixelRed, pixelGreen, pixelBlue, BitVec.extractLsb'_toNat, Nat.shiftRight_eq_div_pow]
  omega

/-- Settles O32: a word with the marker bits encodes its own fields, and every encoding has them. -/
theorem pixelWordsAreTheValuesOfEncodePixel : Obligations.PixelWordsAreTheValuesOfEncodePixel := by
  refine fun w => ⟨fun h => ⟨_, _, _, _, eq_encodePixel_of_isPixelWord h⟩, ?_⟩
  rintro ⟨b, r, g, bl, rfl⟩
  obtain ⟨-, -, -, hmarker, -⟩ := encodePixel_fields b r g bl
  exact (isPixelWord_iff_toNat _).mpr (by exact_mod_cast hmarker)

/-- Settles O33: operands in their ranges are the fields of their word. -/
theorem encodePixelIsInjectiveOnClampedInputs : Obligations.EncodePixelIsInjectiveOnClampedInputs := by
  intro b r g bl b' r' g' bl' hb0 hb hr0 hr hg0 hg hbl0 hbl hb0' hb' hr0' hr' hg0' hg' hbl0' hbl' heq
  obtain ⟨hred, hblue, hgreen, -, hbright⟩ := encodePixel_fields b r g bl
  obtain ⟨hred', hblue', hgreen', -, hbright'⟩ := encodePixel_fields b' r' g' bl'
  rw [heq] at hred hblue hgreen hbright
  rw [← clamp_eq_self hb0 hb, ← clamp_eq_self hr0 hr, ← clamp_eq_self hg0 hg, ← clamp_eq_self hbl0 hbl,
    ← clamp_eq_self hb0' hb', ← clamp_eq_self hr0' hr', ← clamp_eq_self hg0' hg', ← clamp_eq_self hbl0' hbl']
  exact ⟨hbright.symm.trans hbright', hred.symm.trans hred', hgreen.symm.trans hgreen', hblue.symm.trans hblue'⟩

/-! ## The step at an event's turn, R90 -/

/-- Settles O6: the turn fetches what its event decodes to, and runs it on what is left of the cycle. -/
theorem aStepRunsTheEventOfItsTurn : Obligations.AStepRunsTheEventOfItsTurn := by
  intro s e ts i hlegal hturns hdecode
  cases hdecode
  exact step_turn hlegal hturns

end Sys2Proof.Machine

/-! PROOFS. The host interface (40_host_interface.md): what each read answers (R101 to R132), what each write stores
(R103 to R128), and CMD (R129). That an access at a register's offset is its instruction is the family RoundTrip. -/
namespace Sys2Proof.Machine

open Laws

/-! ## Accesses the check of R100 refuses -/

section
variable {cfg : Config} {off : Offset} {pick : Reg → Option Instr}

/-- An aligned 32-bit access where the map has no register. -/
theorem checkAccess_eq_reservedOffset (ha : off.extractLsb' 0 2 = 0b00#2) (hr : regAt cfg off = none) :
    checkAccess cfg 32 off pick = .busError .reservedOffset := by
  simp [checkAccess, ha, hr]

/-- An aligned 32-bit access of a register in a direction it does not have. -/
theorem checkAccess_eq_direction {r : Reg} (ha : off.extractLsb' 0 2 = 0b00#2) (hr : regAt cfg off = some r)
    (hp : pick r = none) : checkAccess cfg 32 off pick = .busError .direction := by
  simp [checkAccess, ha, hr, hp]

end

/-! ## The windows' offsets, R22 -/

theorem snapOffset_eq_ofNat (i : BitVec 10) : BitVec.ofNat 15 (0x1000 + 4 * i.toNat) = (Reg.snap i).offset := by
  rw [← snapOffset_toNat, BitVec.ofNat_toNat, BitVec.setWidth_eq]

theorem pixbufOffset_eq_ofNat (i : BitVec 12) : BitVec.ofNat 15 (0x4000 + 4 * i.toNat) = (Reg.pixbuf i).offset := by
  rw [← pixbufOffset_toNat, BitVec.ofNat_toNat, BitVec.setWidth_eq]

/-- SNAP ends at COUNT, whatever the configuration. -/
theorem regAt_snapOffset (cfg : Config) (i : BitVec 10) :
    regAt cfg (Reg.snap i).offset = if i.toNat < cfg.count then some (.snap i) else none := by
  obtain ⟨-, h12, h2⟩ := snapOffset_fields i
  rw [regAt, if_pos h12, h2]

/-- PIXBUF ends at NPIX+1, whatever the configuration. -/
theorem regAt_pixbufOffset (cfg : Config) (i : BitVec 12) :
    regAt cfg (Reg.pixbuf i).offset = if i.toNat ≤ cfg.npix + 1 then some (.pixbuf i) else none := by
  obtain ⟨-, h14, h2⟩ := pixbufOffset_fields i
  rw [regAt, if_neg (extract_snapField_ne h14), if_pos h14, h2]

theorem decode_rdSnap_outside {cfg : Config} {i : BitVec 10} (h : cfg.count ≤ i.toNat) :
    decode cfg (readOf (.snap i)) = .busError .reservedOffset :=
  checkAccess_eq_reservedOffset (snapOffset_fields i).1 ((regAt_snapOffset cfg i).trans (if_neg h.not_gt))

theorem decode_rdPixbuf_outside {cfg : Config} {i : BitVec 12} (h : cfg.npix + 1 < i.toNat) :
    decode cfg (readOf (.pixbuf i)) = .busError .reservedOffset :=
  checkAccess_eq_reservedOffset (pixbufOffset_fields i).1 ((regAt_pixbufOffset cfg i).trans (if_neg h.not_ge))

/-- The buffer is never the host's to write (R132). -/
theorem decode_wrPixbuf {cfg : Config} {i : BitVec 12} (h : i.toNat ≤ cfg.npix + 1) (d : Word) :
    decode cfg (writeOf (.pixbuf i) d) = .busError .direction :=
  checkAccess_eq_direction (pixbufOffset_fields i).1 ((regAt_pixbufOffset cfg i).trans (if_pos h)) rfl

/-- CMD has no read (R35). -/
theorem decode_readOf_cmd (cfg : Config) : decode cfg (readOf .cmd) = .busError .direction :=
  have hr : regAt cfg Reg.cmd.offset = some .cmd := regAt_eq_regTable cfg (by decide)
  checkAccess_eq_direction (pick := readInstr) rfl hr rfl

/-! ## STATUS, R101 -/

/-- STATUS as a number: LINK's code below the three bits. -/
theorem statusWord_toNat (s : State) : (statusWord s).toNat =
    16 * s.feBusy.toNat + 8 * s.txBusy.toNat + 4 * s.dirty.toNat + s.link.code.toNat := by
  simp only [statusWord, toNat_append_add, BitVec.toNat_ofBool, BitVec.toNat_ofNat]
  omega

/-- The three bits of STATUS above LINK's code. -/
theorem statusWord_bits (s : State) : (statusWord s).getLsbD 2 = s.dirty ∧
    (statusWord s).getLsbD 3 = s.txBusy ∧ (statusWord s).getLsbD 4 = s.feBusy := by
  simp only [statusWord, BitVec.getLsbD_append]
  simp

/-- Settles O14: the word is `statusWord`, which its fields pin. -/
theorem statusReadsItsFields : Obligations.StatusReadsItsFields := by
  intro s
  obtain ⟨hdirty, htx, hfe⟩ := statusWord_bits s
  have hcode : s.link.code.toNat < 4 := s.link.code.isLt
  have hfe1 := s.feBusy.toNat_le
  have htx1 := s.txBusy.toNat_le
  have hdirty1 := s.dirty.toNat_le
  have hn := statusWord_toNat s
  refine ⟨RoundTrip.rdStatus s.cfg rfl, statusWord s, rfl, ?_, hdirty, htx, hfe, by omega⟩
  have hlow : (statusWord s).toNat % 4 = s.link.code.toNat := by omega
  rw [hlow]
  cases s.link <;> rfl

/-! ## The other reads below the windows, R102 to R130 -/

/-- A read that answers a narrower register zero-extended. -/
theorem answer_zeroExtend {n : Nat} (v : BitVec n) (s : State) : answer (v.zeroExtend 32) s =
    .next { s with responses := s.responses ++ [.data (BitVec.ofNat 32 v.toNat)] } := by
  rw [BitVec.ofNat_toNat]
  rfl

/-- Settles O15: each of the five is the zero-extension of its register. -/
theorem flagsAndCountersReadZeroExtended : Obligations.FlagsAndCountersReadZeroExtended := fun s =>
  ⟨RoundTrip.rdIrqFlags s.cfg rfl, answer_zeroExtend s.irqFlags s,
    RoundTrip.rdIrqEn s.cfg rfl, answer_zeroExtend s.irqEn s,
    RoundTrip.rdFramecount s.cfg rfl, answer_zeroExtend s.framecount s,
    RoundTrip.rdOffsecs s.cfg rfl, answer_zeroExtend s.offsecs s,
    RoundTrip.rdSnapseq s.cfg rfl, answer_zeroExtend s.snapseq s⟩

/-- Settles O16: R7's bounds and acc's keep each number inside a word, so the word loses nothing of it. -/
theorem acclenAndConfigurationReadTheirNumbers : Obligations.AcclenAndConfigurationReadTheirNumbers := by
  intro s hlegal hacc
  obtain ⟨⟨-, hbase⟩, ⟨-, hcount, -⟩, ⟨-, hnpix⟩, ⟨-, hsilence⟩, ⟨-, htimeout⟩⟩ := hlegal
  have hword {k : Nat} (hk : k ≤ 65535) : (BitVec.ofNat 32 k).toNat = k :=
    (BitVec.toNat_ofNat k 32).trans (Nat.mod_eq_of_lt (by omega))
  exact ⟨_, _, _, _, _, _,
    ⟨RoundTrip.rdAcclen s.cfg rfl, rfl, hword (by omega)⟩,
    ⟨RoundTrip.rdCfgBase s.cfg rfl, rfl, hword (by omega)⟩,
    ⟨RoundTrip.rdCfgCount s.cfg rfl, rfl, hword (by omega)⟩,
    ⟨RoundTrip.rdCfgNpix s.cfg rfl, rfl, hword (by omega)⟩,
    ⟨RoundTrip.rdCfgSilence s.cfg rfl, rfl, hword (by omega)⟩,
    ⟨RoundTrip.rdCfgTimeout s.cfg rfl, rfl, hword (by omega)⟩,
    ⟨RoundTrip.rdCfgStartMarker s.cfg rfl, rfl⟩,
    ⟨RoundTrip.rdCfgEndMarker s.cfg rfl, rfl⟩⟩

/-- Settles O17: each read is the `answer` of its register's own word. -/
theorem operandsAndResultReadAsWritten : Obligations.OperandsAndResultReadAsWritten := fun s =>
  ⟨RoundTrip.rdArgBright s.cfg rfl, rfl, RoundTrip.rdArgRed s.cfg rfl, rfl,
    RoundTrip.rdArgGreen s.cfg rfl, rfl, RoundTrip.rdArgBlue s.cfg rfl, rfl,
    RoundTrip.rdArgFirst s.cfg rfl, rfl, RoundTrip.rdArgLast s.cfg rfl, rfl,
    RoundTrip.rdEncResult s.cfg rfl, rfl⟩

/-! ## The windows, R131 and R132 -/

section
variable {s : State}

theorem execRdSnap_inside {i : BitVec 10} {b : Byte} (hi : i.toNat < s.cfg.count) (hb : s.snap[i.toNat]? = some b) :
    execRdSnap i s = answer (b.zeroExtend 32) s := by
  rw [execRdSnap, if_pos hi, readSnap, hb, orAbsent]

theorem execRdSnap_outside {i : BitVec 10} (hi : s.cfg.count ≤ i.toNat) : execRdSnap i s = .next (busError s) :=
  if_neg hi.not_gt

theorem execRdPixbuf_inside {i : BitVec 12} {w : Word} (hi : i.toNat ≤ s.cfg.npix + 1)
    (hw : s.buf[i.toNat]? = some w) : execRdPixbuf i s = answer w s := by
  rw [execRdPixbuf, if_pos hi, readBuf, hw, orAbsent]

theorem execRdPixbuf_outside {i : BitVec 12} (hi : s.cfg.npix + 1 < i.toNat) :
    execRdPixbuf i s = .next (busError s) :=
  if_neg hi.not_ge

end

/-- Settles O18: below COUNT the snapshot has the element, from COUNT on the map has no register. -/
theorem snapReadsTheSnapshot : Obligations.SnapReadsTheSnapshot := by
  rintro s i ⟨-, hsnap, -⟩
  rw [snapOffset_eq_ofNat]
  constructor
  · intro hi
    have hb := List.getElem?_eq_getElem (l := s.snap) (i := i.toNat) (by omega)
    exact ⟨decode_rdSnap s.cfg i hi, _, hb, (execRdSnap_inside hi hb).trans (answer_zeroExtend _ s)⟩
  · intro hi
    exact ⟨decode_rdSnap_outside hi, execRdSnap_outside hi⟩

/-- Settles O19: up to NPIX+1 the buffer has the word and the map a register without a write, above it none. -/
theorem pixbufReadsTheBuffer : Obligations.PixbufReadsTheBuffer := by
  rintro s i d ⟨-, -, hbuf⟩
  rw [pixbufOffset_eq_ofNat]
  constructor
  · intro hi
    have hw := List.getElem?_eq_getElem (l := s.buf) (i := i.toNat) (by omega)
    exact ⟨decode_rdPixbuf s.cfg i hi, decode_wrPixbuf hi d, _, hw, execRdPixbuf_inside hi hw⟩
  · intro hi
    exact ⟨decode_rdPixbuf_outside hi, execRdPixbuf_outside hi⟩

/-! ## The writes, R103 to R128 -/

/-- Settles O20: the register is what `clearFlags` leaves, bit by bit. -/
theorem writingOnesClearsExactlyThoseFlags : Obligations.WritingOnesClearsExactlyThoseFlags := fun s d =>
  ⟨RoundTrip.wrIrqFlags d s.cfg rfl, (clearFlags d s).irqFlags, rfl, fun _ hk => clearFlags_bit d s hk⟩

/-- Settles O21: the five bits are the word's remainder. -/
theorem writingIrqEnStoresItsFiveBits : Obligations.WritingIrqEnStoresItsFiveBits := fun s d =>
  ⟨RoundTrip.wrIrqEn d s.cfg rfl, d.extractLsb' 0 5, rfl, by simp [BitVec.extractLsb'_toNat]⟩

/-- Settles O22: each write is the `acknowledge` of its one register's update. -/
theorem operandWritesStoreTheWord : Obligations.OperandWritesStoreTheWord := fun s d =>
  ⟨RoundTrip.wrArgBright d s.cfg rfl, rfl, RoundTrip.wrArgRed d s.cfg rfl, rfl,
    RoundTrip.wrArgGreen d s.cfg rfl, rfl, RoundTrip.wrArgBlue d s.cfg rfl, rfl,
    RoundTrip.wrArgFirst d s.cfg rfl, rfl, RoundTrip.wrArgLast d s.cfg rfl, rfl⟩

/-! ## CMD, R129 -/

/-- WR CMD is the row of the command its word encodes, the wait of R152 included. -/
theorem execWrCmd_eq_exec (v : Word) (s : State) : execWrCmd v s = exec (decodeCmd v).instr s := by
  unfold execWrCmd
  cases decodeCmd v <;> rfl

/-- Settles O30, by the two cases of `cmdWrite`: no command's effect touches the host's side. -/
theorem writingCmdPerformsTheCommand : Obligations.WritingCmdPerformsTheCommand := by
  intro s v
  refine ⟨RoundTrip.wrCmd v s.cfg rfl, decode_readOf_cmd s.cfg, fun hbusy => ?_, fun hidle => ?_⟩
  · exact (execWrCmd_eq v s).trans (if_pos hbusy)
  · have hdone : execWrCmd v s = .next (respond .ack (cmdEffect (decodeCmd v) s)) :=
      (execWrCmd_eq v s).trans (if_neg (by simp [hidle]))
    exact ⟨execWrCmd_eq_exec v s, _, hdone, by simp, by simp⟩

end Sys2Proof.Machine

/-! PROOFS. The bit codec's command (41_bit_codec.md): ENCODE (R141), by the two cases of a CMD write. -/
namespace Sys2Proof.Machine

section
variable {s : State}

/-- While a fill runs a CMD write waits (R152). -/
theorem cmdWrite_of_feBusy (hbusy : s.feBusy = true) (v : Word) (effect : State → State) :
    cmdWrite v effect s = .next { s with cmdWait := some v } :=
  if_pos hbusy

/-- With no fill running a CMD write acts and is acknowledged (R129). -/
theorem cmdWrite_of_not_feBusy (hidle : s.feBusy = false) (v : Word) (effect : State → State) :
    cmdWrite v effect s = .next (respond .ack (effect s)) :=
  if_neg (Bool.eq_false_iff.mp hidle)

end

/-- Settles O29: ENCODE is the CMD write of the word 3 whose effect sets ENC_RESULT alone. -/
theorem encodeWritesItsResult : Obligations.EncodeWritesItsResult := by
  intro s
  refine ⟨by decide, fun hidle => ?_, fun hbusy => ?_⟩
  · exact cmdWrite_of_not_feBusy hidle 0x00000003#32 encodeEffect
  · exact cmdWrite_of_feBusy hbusy 0x00000003#32 encodeEffect

end Sys2Proof.Machine

/-! PROOFS. The frame buffer's commands and the fill engine (42_frame_buffer.md): what each command does in the step of
its CMD write (R150 to R156), and a fill's steps (R151, R157, R158). -/
namespace Sys2Proof.Machine

section
variable {s : State}

/-! ## A CMD write that waits, R152 -/

/-- While a CMD write waits and a fill runs, the host's turn passes. -/
theorem step_host_waiting {v : Word} {xs : List Turn} {go : Bool} (hl : s.cfg.legal) (hw : s.cmdWait = some v)
    (ht : s.turns = .host go :: xs) (hb : s.feBusy = true) : step s = .next { s with turns := xs } := by
  rw [step_turn hl ht]
  simp [runTurn, fetch, fetchHost, runFetched, hw, hb]

/-- Once no fill runs, the host's turn performs the CMD write that waits. -/
theorem step_host_performs {v : Word} {xs : List Turn} {go : Bool} (hl : s.cfg.legal) (hw : s.cmdWait = some v)
    (ht : s.turns = .host go :: xs) (hb : s.feBusy = false) :
    step s = exec (.wrCmd v) { s with turns := xs, cmdWait := none } := by
  rw [step_turn hl ht]
  simp [runTurn, fetch, fetchHost, runFetched, hw, hb]

/-- Settles O10: `cmdWrite` holds the write, and the host's turns go by `feBusy` until it is performed. -/
theorem aCmdWriteWaitsForTheRunningFill : Obligations.ACmdWriteWaitsForTheRunningFill := by
  intro s v ts go
  refine ⟨fun hbusy => ?_, fun hlegal hwait hturns => ⟨?_, ?_⟩⟩
  · exact (execWrCmd_eq v s).trans (cmdWrite_of_feBusy hbusy v _)
  · exact step_host_waiting hlegal hwait hturns
  · exact step_host_performs hlegal hwait hturns

/-! ## NOP and the reserved words, R150 and R153 -/

/-- Settles O24: NOP is the CMD write of the word 0 whose effect is nothing. -/
theorem nopChangesNothing : Obligations.NopChangesNothing := by
  intro s
  refine ⟨by decide, fun hidle => ?_, fun hbusy => ?_⟩
  · exact cmdWrite_of_not_feBusy hidle 0x00000000#32 id
  · exact cmdWrite_of_feBusy hbusy 0x00000000#32 id

/-- From the value 4 on every command word is reserved (R81). -/
theorem cmdEffect_decodeCmd_of_reserved {v : Word} (hv : 4 ≤ v.toNat) :
    cmdEffect (decodeCmd v) = setFlag .cmderr := by
  rcases decodeCmd_value_cases v with ⟨h, -⟩ | ⟨h, -⟩ | ⟨h, -⟩ | ⟨h, -⟩ | ⟨-, o, h⟩ | ⟨-, r, x, h⟩
  iterate 4 omega
  · rw [h, cmdEffect]
  · rw [h, cmdEffect]

/-- Settles O25: whatever its word, a reserved command's effect is to set CMDERR. -/
theorem aReservedCommandSetsCmderrAlone : Obligations.AReservedCommandSetsCmderrAlone := by
  refine fun s => ⟨fun hidle => ⟨fun v hv => ?_, fun o => ?_, fun r x => ?_⟩, fun hbusy => ⟨fun o => ?_, fun r x => ?_⟩⟩
  · refine (execWrCmd_eq v s).trans ?_
    rw [cmdEffect_decodeCmd_of_reserved hv]
    exact cmdWrite_of_not_feBusy hidle v (setFlag .cmderr)
  · exact cmdWrite_of_not_feBusy hidle (0#28 ++ o) (setFlag .cmderr)
  · exact cmdWrite_of_not_feBusy hidle (r ++ x) (setFlag .cmderr)
  · exact cmdWrite_of_feBusy hbusy (0#28 ++ o) (setFlag .cmderr)
  · exact cmdWrite_of_feBusy hbusy (r ++ x) (setFlag .cmderr)

/-! ## FILL and CLEAR, R154 to R156 -/

/-- Over an empty range FILL sets dirty (R156). -/
theorem fillEffect_of_empty (h : fillLast s < fillFirst s) : fillEffect s = setDirty s :=
  if_pos h

/-- Over any other range FILL starts the fill engine (R154). -/
theorem fillEffect_of_range (h : fillFirst s ≤ fillLast s) :
    fillEffect s = startFill (operandPixel s) (fillFirst s).toNat (fillLast s).toNat s :=
  if_neg h.not_gt

/-- With no fill running, FILL over an empty range sets dirty and is acknowledged. -/
theorem execFill_of_empty (hidle : s.feBusy = false) (h : fillLast s < fillFirst s) :
    execFill s = .next (respond .ack (setDirty s)) := by
  rw [execFill, cmdWrite_of_not_feBusy hidle, fillEffect_of_empty h]

/-- With no fill running, FILL over any other range latches its operands and is acknowledged. -/
theorem execFill_of_range (hidle : s.feBusy = false) (h : fillFirst s ≤ fillLast s) :
    execFill s =
      .next (respond .ack (startFill (operandPixel s) (fillFirst s).toNat (fillLast s).toNat s)) := by
  rw [execFill, cmdWrite_of_not_feBusy hidle, fillEffect_of_range h]

/-- Settles O26, by the two kinds of range. -/
theorem fillLatchesItsOperands : Obligations.FillLatchesItsOperands := by
  refine fun s => ⟨by decide, fun hidle => ⟨fun hempty => ?_, fun hrange => ?_⟩, fun hbusy => ?_⟩
  · exact execFill_of_empty hidle hempty
  · exact execFill_of_range hidle hrange
  · exact cmdWrite_of_feBusy hbusy 0x00000001#32 fillEffect

/-- The clamped range is empty exactly where the operands' own range misses the pixels (R83, R156). -/
theorem clampedRange_empty_iff {first last npix : Int} (hn : 1 ≤ npix) :
    min last npix < max first 1 ↔ npix < first ∨ last < 1 ∨ last < first := by
  omega

/-- Settles O27: a legal NPIX is at least 1, so only the operands can make the range empty. -/
theorem anEmptyFillOnlySetsDirty : Obligations.AnEmptyFillOnlySetsDirty := by
  rintro s ⟨-, -, ⟨hnpix, -⟩, -⟩ hidle
  exact ⟨clampedRange_empty_iff (by omega), execFill_of_empty hidle⟩

/-- The black word of CLEAR is the pixels' word at reset (R155, R38). -/
theorem encodePixel_black : encodePixel 0 0 0 0 = blackPixel := by decide

/-- NPIX fits the operand register LAST. -/
theorem toInt_ofNat_npix {n : Nat} (hn : n ≤ 4094) : (BitVec.ofNat 32 n).toInt = n := by
  rw [BitVec.toInt_eq_toNat_of_lt (by simp; omega), BitVec.toNat_ofNat, Nat.mod_eq_of_lt (by omega)]

/-- The state with CLEAR's operands in the operand registers (R155). -/
def withClearOperands (s : State) : State :=
  { s with
    argBright := 0, argRed := 0, argGreen := 0, argBlue := 0
    argFirst := 1, argLast := BitVec.ofNat 32 s.cfg.npix }

/-- On CLEAR's operands FILL starts the fill that CLEAR starts. -/
theorem fillEffect_withClearOperands (hl : s.cfg.legal) :
    fillEffect (withClearOperands s) = clearEffect (withClearOperands s) := by
  obtain ⟨-, -, ⟨hpos, hnpix⟩, -⟩ := hl
  have hfirst : fillFirst (withClearOperands s) = 1 := rfl
  have hlast : fillLast (withClearOperands s) = s.cfg.npix := by
    simp [fillLast, withClearOperands, toInt_ofNat_npix hnpix]
  rw [fillEffect_of_range (by omega), hfirst, hlast]
  rfl

/-- Settles O28: CLEAR's effect is a fill of black over every pixel, and FILL's on CLEAR's operands is the same. -/
theorem clearIsFillWithBlackOverEveryPixel : Obligations.ClearIsFillWithBlackOverEveryPixel := by
  refine fun s hlegal => ⟨by decide, encodePixel_black, fun hidle => ⟨?_, ?_⟩, fun hbusy => ?_⟩
  · refine (cmdWrite_of_not_feBusy hidle 0x00000002#32 clearEffect).trans ?_
    rw [clearEffect, encodePixel_black]
    rfl
  · have hfill := cmdWrite_of_not_feBusy (s := withClearOperands s) hidle 0x00000001#32 fillEffect
    rw [fillEffect_withClearOperands hlegal, clearEffect, encodePixel_black] at hfill
    exact hfill
  · exact cmdWrite_of_feBusy hbusy 0x00000002#32 clearEffect

/-! ## The fill engine, R157 and R158 -/

section
variable (hbusy : s.feBusy = true) (hfirst : 1 ≤ s.feIdx) (hlast : s.feLast ≤ s.cfg.npix) (hmem : Memory.wf s)
include hbusy hfirst hlast hmem

/-- With its guard met (R157), FILL_STEP writes its word and goes on. -/
theorem execFillStep_of_range (hrange : s.feIdx ≤ s.feLast) :
    execFillStep s = .next (fillAdvance { s with buf := s.buf.set s.feIdx s.feWord }) := by
  rw [execFillStep, if_pos hbusy, if_pos ⟨hfirst, hrange, hlast⟩, writeBuf_some hmem (by omega), orAbsent]

/-- The last word of its range ends the fill and sets dirty (R158). -/
theorem execFillStep_at_last (he : s.feIdx = s.feLast) :
    execFillStep s = .next { s with
      buf := s.buf.set s.feIdx s.feWord, feBusy := false, dirty := true } := by
  rw [execFillStep_of_range hbusy hfirst hlast hmem he.le, fillAdvance, if_pos he]
  rfl

/-- Before the last word the fill goes on at the next index. -/
theorem execFillStep_before_last (hlt : s.feIdx < s.feLast) :
    execFillStep s = .next { s with buf := s.buf.set s.feIdx s.feWord, feIdx := s.feIdx + 1 } := by
  rw [execFillStep_of_range hbusy hfirst hlast hmem hlt.le, fillAdvance, if_neg hlt.ne]

end

/-- Settles O34: the step writes one word, and what follows it goes by whether that was the last. -/
theorem fillStepWritesOneWord : Obligations.FillStepWritesOneWord := by
  refine fun s => ⟨fun hbusy hfirst hrange hlast hmem => ?_, fun hidle => if_neg (by simp [hidle])⟩
  have hwrite := readBuf_writeBuf (writeBuf_some hmem (i := s.feIdx) (by omega) s.feWord)
  rcases hrange.lt_or_eq with hlt | he
  · exact ⟨_, execFillStep_before_last hbusy hfirst hlast hmem hlt, hwrite, fun he => absurd he hlt.ne, fun _ => rfl⟩
  · exact ⟨_, execFillStep_at_last hbusy hfirst hlast hmem he, hwrite, fun _ => rfl, fun hne => absurd he hne⟩

/-- A buffer after `k` words `w` are written from index `first` on. -/
def writeWords (w : Word) (first : Nat) (buf : List Word) : Nat → List Word
  | 0 => buf
  | k + 1 => (writeWords w first buf k).set (first + k) w

@[simp] theorem writeWords_length (w : Word) (first : Nat) (buf : List Word) (k : Nat) :
    (writeWords w first buf k).length = buf.length := by
  induction k with
  | zero => rfl
  | succ k ih => rw [writeWords, List.length_set, ih]

/-- Exactly the `k` words from `first` on are the written one. -/
theorem writeWords_getElem? {w : Word} {first : Nat} {buf : List Word} {k : Nat} (hk : first + k ≤ buf.length)
    (j : Nat) : (writeWords w first buf k)[j]? = if first ≤ j ∧ j < first + k then some w else buf[j]? := by
  induction k with
  | zero => rw [writeWords, if_neg (by omega)]
  | succ k ih =>
    rw [writeWords]
    by_cases hj : first + k = j
    · subst hj
      rw [List.getElem?_set_self (by rw [writeWords_length]; omega), if_pos (by omega)]
    · rw [List.getElem?_set_ne hj, ih (by omega)]
      exact if_congr (by omega) rfl rfl

/-- A fill with `k` of its words written, more to come (R157). -/
def fillingAfter (k : Nat) (s : State) : State :=
  { s with buf := writeWords s.feWord s.feIdx s.buf k, feIdx := s.feIdx + k }

section
variable (hbusy : s.feBusy = true) (hfirst : 1 ≤ s.feIdx) (hlast : s.feLast ≤ s.cfg.npix) (hmem : Memory.wf s)
include hbusy hfirst hlast hmem

/-- Between two of its steps the fill meets the guard of the next. -/
theorem fillingAfter_guard (k : Nat) : (fillingAfter k s).feBusy = true ∧ 1 ≤ (fillingAfter k s).feIdx ∧
    (fillingAfter k s).feLast ≤ (fillingAfter k s).cfg.npix ∧ Memory.wf (fillingAfter k s) :=
  ⟨hbusy, Nat.le_add_right_of_le hfirst, hlast, memory_wf_of_eq hmem rfl hmem.1 rfl (writeWords_length ..)⟩

/-- As long as words are left, each FILL_STEP writes one (R157). -/
theorem execAll_fillSteps {k : Nat} (hk : s.feIdx + k ≤ s.feLast) :
    execAll (List.replicate k .fillStep) s = .next (fillingAfter k s) := by
  induction k with
  | zero => rfl
  | succ k ih =>
    obtain ⟨hbusy', hfirst', hlast', hmem'⟩ := fillingAfter_guard hbusy hfirst hlast hmem k
    have hstep : exec .fillStep (fillingAfter k s) = .next (fillingAfter (k + 1) s) :=
      execFillStep_before_last hbusy' hfirst' hlast' hmem' hk
    rw [List.replicate_succ', execAll_append (ih (by omega)), execAll_cons hstep, execAll]

/-- The last FILL_STEP writes the last word, ends the fill and sets dirty (R158). -/
theorem execAll_fillSteps_last {k : Nat} (hk : s.feIdx + k = s.feLast) :
    execAll (List.replicate (k + 1) .fillStep) s = .next { s with
      buf := writeWords s.feWord s.feIdx s.buf (k + 1)
      feBusy := false, feIdx := s.feIdx + k, dirty := true } := by
  obtain ⟨hbusy', hfirst', hlast', hmem'⟩ := fillingAfter_guard hbusy hfirst hlast hmem k
  have hstep := execFillStep_at_last hbusy' hfirst' hlast' hmem' hk
  rw [List.replicate_succ', execAll_append (execAll_fillSteps hbusy hfirst hlast hmem hk.le)]
  exact execAll_cons (is := []) hstep

end

/-- Settles O35: before its last step the fill has written as many words as it took steps, by induction on the steps;
the last one ends it. -/
theorem aFillWritesExactlyItsRangeInAsManySteps : Obligations.AFillWritesExactlyItsRangeInAsManySteps := by
  intro s hbusy hfirst hrange hlast hmem
  have hlen : s.buf.length = s.cfg.npix + 2 := hmem.2.2
  have hk : s.feIdx + (s.feLast - s.feIdx) = s.feLast := by omega
  refine ⟨_, execAll_fillSteps_last hbusy hfirst hlast hmem hk, fun j => ?_, by rw [hk], fun k hk => ?_⟩
  · rw [writeWords_getElem? (by omega)]
    exact if_congr (by omega) rfl rfl
  · exact ⟨_, execAll_fillSteps hbusy hfirst hlast hmem (by omega), hbusy, rfl⟩

end

end Sys2Proof.Machine

/-! PROOFS. The invariant (10_state.md R24 to R46, 42_frame_buffer.md R157, R159, 45_transmitter.md R200 to R205): each
operation of the block keeps `Inv`, so every effect, every turn and every step does. -/
namespace Sys2Proof.Machine

variable {s t : State}

/-! ## What the invariant does not speak of -/

/-- The invariant is about the block, not about what surrounds it. -/
theorem surroundings_inv (h : Inv s) (t : State) : Inv (s.surroundings t) :=
  { h with }

theorem respond_inv (h : Inv s) (r : Response) : Inv (respond r s) :=
  { h with }

theorem clockEdge_inv (h : Inv s) : Inv (clockEdge s) := by
  unfold clockEdge
  split
  · exact { h with }
  · exact { h with }

/-- The state a turn's instruction is fetched on is the turn's, but for the host's side. -/
theorem sameBlock_inv (hb : sameBlock s t) (h : Inv s) : Inv t := by
  rw [hb]
  exact { h with }

theorem setFlag_inv (h : Inv s) (f : Flag) : Inv (setFlag f s) :=
  { h with }

/-! ## The receiver and the link -/

theorem appendByte_inv (h : Inv s) (b : Byte) (hl : s.acc.length < accMax) : Inv (appendByte b s) :=
  { h with
    memory := appendByte_wf b h.memory hl
    armed := fun _ => rfl }

/-- An overflowing byte is discarded with what came before it (R181). -/
theorem discardAcc_appendByte_inv (h : Inv s) (b : Byte) : Inv (discardAcc (appendByte b s)) :=
  { h with
    memory := discardAcc_wf h.memory.2
    armed := fun _ => rfl }

theorem countTick_inv (h : Inv s) : Inv (countTick s) :=
  { h with }

theorem consumeAcc_inv (h : Inv s) : Inv (consumeAcc s) :=
  { h with
    memory := consumeAcc_wf h.memory
    armed := fun hne => absurd rfl hne }

theorem latch_inv (h : Inv s) (hv : frameValid s.cfg s.acc = true) : Inv (latch s) :=
  { h with memory := latch_wf h.memory hv }

/-- Rule 4 of R171 leaves OFFSECS below the budget, whatever rules 1 to 3 say (R30). -/
theorem linkDecision_secs_lt (hl : s.cfg.legal) : (linkDecision s).secs < s.cfg.timeoutS := by
  obtain ⟨-, -, -, -, ⟨hpos, -⟩⟩ := hl
  unfold linkDecision timeoutRule
  split
  · exact hpos
  · omega

theorem storeDecision_inv (h : Inv s) : Inv (storeDecision (linkDecision s) s) where
  __ := h
  offsecs := (Nat.mod_le _ _).trans_lt (linkDecision_secs_lt h.legal)

/-! ## The commands -/

theorem isPixelWord_encodePixel (b r g bl : Int) : isPixelWord (encodePixel b r g bl) :=
  (pixelWordsAreTheValuesOfEncodePixel _).mpr ⟨b, r, g, bl, rfl⟩

theorem setDirty_inv (h : Inv s) : Inv (setDirty s) :=
  { h with sending := fun hb => ⟨rfl, (h.sending hb).2⟩ }

theorem startFill_inv (h : Inv s) {w : Word} {first last : Nat} (hw : isPixelWord w) (hf : 1 ≤ first)
    (hfl : first ≤ last) (hl : last ≤ s.cfg.npix) : Inv (startFill w first last s) :=
  { h with fill := fun _ => ⟨hf, hfl, hl, hw⟩ }

/-- FILL clamps its range to the pixels (R83). -/
theorem fillEffect_inv (h : Inv s) : Inv (fillEffect s) := by
  rcases lt_or_ge (fillLast s) (fillFirst s) with he | hr
  · rw [fillEffect_of_empty he]
    exact setDirty_inv h
  · have hfirst : 1 ≤ fillFirst s := le_max_right ..
    have hlast : fillLast s ≤ s.cfg.npix := min_le_right ..
    rw [fillEffect_of_range hr]
    exact startFill_inv h (isPixelWord_encodePixel ..) (by omega) (by omega) (by omega)

theorem clearEffect_inv (h : Inv s) : Inv (clearEffect s) := by
  obtain ⟨-, -, ⟨hpos, -⟩, -⟩ := h.legal
  exact startFill_inv h (isPixelWord_encodePixel ..) le_rfl hpos le_rfl

theorem cmdEffect_inv (h : Inv s) (c : Cmd) : Inv (cmdEffect c s) := by
  cases c with
  | nop => exact h
  | fill => exact fillEffect_inv h
  | clear => exact clearEffect_inv h
  | encode => exact { h with }
  | reservedOp o => exact setFlag_inv h .cmderr
  | reservedRsv r x => exact setFlag_inv h .cmderr

/-! ## The writers of the buffer -/

/-- A pixel word written at a pixel's index keeps markers and pixels (R151, R159). -/
theorem setPixel_inv (h : Inv s) {i : Nat} {w : Word} (hf : 1 ≤ i) (hl : i ≤ s.cfg.npix) (hw : isPixelWord w) :
    Inv { s with buf := s.buf.set i w } where
  __ := h
  memory := memory_wf_of_eq h.memory rfl h.memory.1 rfl List.length_set
  startMarker := (List.getElem?_set_ne (by omega)).trans h.startMarker
  endMarker := (List.getElem?_set_ne (Nat.lt_succ_of_le hl).ne).trans h.endMarker
  pixels := by
    intro v hv
    obtain ⟨j, hj1, hj2, hj⟩ := mem_pixels.mp hv
    by_cases hij : i = j
    · subst hij
      rw [List.getElem?_set_self (by rw [h.memory.2.2]; omega)] at hj
      cases hj
      exact hw
    · rw [List.getElem?_set_ne hij] at hj
      exact h.pixels v (mem_pixels.mpr ⟨j, hj1, hj2, hj⟩)

/-- After its last word a fill is over; after another one the next index is still in its range (R157). -/
theorem fillAdvance_inv (h : Inv s) : Inv (fillAdvance s) := by
  unfold fillAdvance
  split
  · exact setDirty_inv { h with fill := fun hb => absurd hb Bool.false_ne_true }
  · rename_i hne
    exact { h with
      fill := fun hb => by
        obtain ⟨hf, hfl, hl, hw⟩ := h.fill hb
        exact ⟨Nat.le_succ_of_le hf, Nat.lt_of_le_of_ne hfl hne, hl, hw⟩ }

theorem fillStep_inv (h : Inv s) (hb : s.feBusy = true) :
    Inv (fillAdvance { s with buf := s.buf.set s.feIdx s.feWord }) := by
  obtain ⟨hf, hfl, hl, hw⟩ := h.fill hb
  exact fillAdvance_inv (setPixel_inv h hf (hfl.trans hl) hw)

/-- Writing the word that stands there changes no list. -/
theorem set_of_getElem?_eq_some {α : Type} {l : List α} {i : Nat} {a : α} (h : l[i]? = some a) : l.set i a = l := by
  obtain ⟨hi, rfl⟩ := List.getElem?_eq_some_iff.mp h
  exact List.set_getElem_self hi

/-- TX_START writes again the markers that stand there (R38, R201). -/
theorem withMarkers_eq_self (h : Inv s) : withMarkers s = s := by
  rw [withMarkers, set_of_getElem?_eq_some h.startMarker, set_of_getElem?_eq_some h.endMarker]

/-! ## The transmitter -/

theorem txBegin_inv (h : Inv s) (hd : s.dirty = true) : Inv (txBegin s) :=
  { h with
    sending := fun _ => ⟨hd, Nat.zero_le _, fun _ => rfl⟩
    atRest := fun hb => absurd hb.symm Bool.false_ne_true }

/-- `emit` ends with the clock low (R205); the data line is free during a transmission. -/
theorem emit_inv (h : Inv s) (hb : s.txBusy = true) (x : Bool) (w : Word) : Inv (emit x { s with txWord := w }) :=
  { h with
    atRest := fun hr => absurd hr (ne_false_of_eq_true hb)
    clock := rfl }

/-- The next bit is in the same word, or the first of the next word (R202). -/
theorem txAdvance_inv (h : Inv s) (hb : s.txBusy = true) (hi : s.txIdx ≤ s.cfg.npix + 1) : Inv (txAdvance s) := by
  obtain ⟨hd, -, -⟩ := h.sending hb
  by_cases h0 : s.txBit = 0
  · rw [txAdvance_last h0]
    exact { h with
      sending := fun _ => ⟨hd, Nat.succ_le_succ hi, fun _ => rfl⟩
      atRest := fun hr => absurd hr (ne_false_of_eq_true hb) }
  · rw [txAdvance_next h0]
    exact { h with
      sending := fun _ => ⟨hd, hi.trans (Nat.le_succ _), fun he => absurd he (by simp only []; omega)⟩
      atRest := fun hr => absurd hr (ne_false_of_eq_true hb) }

theorem txRest_inv (h : Inv s) : Inv (txRest s) :=
  { h with
    sending := fun hb => absurd hb Bool.false_ne_true
    atRest := fun _ => ⟨rfl, rfl, rfl⟩
    clock := rfl }

theorem txAbort_inv (h : Inv s) : Inv (txAbort s) :=
  { txRest_inv h with }

/-- TX_END clears dirty when the transmission is over (R203). -/
theorem txEnd_inv (h : Inv s) : Inv { txRest s with dirty := false } :=
  { txRest_inv h with sending := fun hb => absurd hb Bool.false_ne_true }

/-! ## Reset, and every step -/

/-- The buffer at reset is black between the markers (R38). -/
theorem pixels_resetOf (cfg : Config) : pixels (State.resetOf cfg) = List.replicate cfg.npix blackPixel := by
  simp [pixels, State.resetOf]

theorem resetOf_inv {cfg : Config} (hl : cfg.legal) : Inv (State.resetOf cfg) where
  legal := hl
  memory := resetOf_wf cfg
  startMarker := rfl
  endMarker := by simp [State.resetOf]
  pixels := by
    intro w hw
    rw [pixels_resetOf] at hw
    rw [List.eq_of_mem_replicate hw]
    decide
  offsecs := by
    obtain ⟨-, -, -, -, ⟨hpos, -⟩⟩ := hl
    exact hpos
  armed := fun hne => absurd rfl hne
  fill := fun hb => absurd hb Bool.false_ne_true
  sending := fun hb => absurd hb Bool.false_ne_true
  atRest := fun _ => ⟨rfl, rfl, rfl⟩
  clock := rfl

/-- RESET meets the invariant whatever stood before. -/
theorem resetBlock_inv (hl : s.cfg.legal) : Inv (resetBlock s) := by
  rw [resetBlock_eq]
  exact surroundings_inv (resetOf_inv hl) s

/-- Every effect keeps the invariant. -/
theorem Effect.inv {i : Instr} (h : Effect i s t) (hs : Inv s) : Inv t := by
  cases h with
  | read => exact respond_inv hs _
  | idle => exact hs
  | irqFlags => exact { hs with }
  | irqEn => exact { hs with }
  | argBright => exact { hs with }
  | argRed => exact { hs with }
  | argGreen => exact { hs with }
  | argBlue => exact { hs with }
  | argFirst => exact { hs with }
  | argLast => exact { hs with }
  | held hi hb => exact { hs with }
  | command hi hb => exact respond_inv (cmdEffect_inv hs _) .ack
  | fillStep hb hr hl => exact fillStep_inv hs hb
  | append b hl => exact appendByte_inv hs b hl
  | discard b hl => exact discardAcc_appendByte_inv hs b
  | count => exact countTick_inv hs
  | drop ha hv => exact consumeAcc_inv (countTick_inv hs)
  | latch ha hv => exact consumeAcc_inv (latch_inv (countTick_inv hs) hv)
  | second hc => exact storeDecision_inv hs
  | transition hc => exact setFlag_inv (storeDecision_inv hs) .linkchg
  | txStart hb hd hl =>
    rw [withMarkers_eq_self hs]
    exact txBegin_inv hs hd
  | txBit hb hi hw => exact txAdvance_inv (emit_inv hs hb _ _) hb hi
  | txEnd hb hi => exact txEnd_inv hs
  | txFault hb => exact setFlag_inv (txAbort_inv hs) .txerr
  | reset => exact resetBlock_inv hs.legal
  | resetAbort hb => exact resetBlock_inv (s := txAbort s) hs.legal

/-- Every turn keeps the invariant: it runs an instruction, or answers a refused access, or passes. -/
theorem runTurn_inv {x : Turn} (h : runTurn x s = .next t) (hs : Inv s) : Inv t := by
  unfold runTurn at h
  rcases fetch_frame x s with ⟨i, u, hf, hu⟩ | ⟨u, hf, hu⟩ | hf <;> rw [hf] at h
  · exact (exec_effect h).inv (sameBlock_inv hu hs)
  · cases h
    exact respond_inv (sameBlock_inv hu hs) .busError
  · cases h
    exact hs

/-- Settles O52: a step is the clock edge or a turn, and each keeps the invariant. -/
theorem everyStepKeepsTheInvariants : Obligations.EveryStepKeepsTheInvariants := by
  intro s t hs h
  obtain ⟨-, ⟨-, rfl⟩ | ⟨x, xs, -, hx⟩⟩ := step_next h
  · exact clockEdge_inv hs
  · exact runTurn_inv hx { hs with }

end Sys2Proof.Machine

/-! PROOFS. The link-health state machine (43_link_health.md): the rows of its table (R177), what a silence does to the
link (R175, R176), and that no other step writes it (R170). -/
namespace Sys2Proof.Machine

variable {s t : State}

/-! ## One second tick, R177 -/

/-- A legal budget is at least one second (R7). -/
theorem timeoutS_pos (hc : s.cfg.legal) : 0 < s.cfg.timeoutS := by
  obtain ⟨-, -, -, -, ⟨hpos, -⟩⟩ := hc
  exact hpos

/-- A decision with a transition is stored and raises LINKCHG, bit 1 (R171). -/
theorem exec_secTick_of_changed {l : Link} {n : Nat} (h : linkDecision s = ⟨l, n, true⟩) :
    exec .secTick s = .next { s with
      link := l, offsecs := BitVec.ofNat 16 n, framecount := 0, irqFlags := s.irqFlags ||| 0b00010#5 } := by
  rw [exec, execSecTick, h]
  rfl

/-- A decision without one is stored, and nothing else happens (R171). -/
theorem exec_secTick_of_unchanged {l : Link} {n : Nat} (h : linkDecision s = ⟨l, n, false⟩) :
    exec .secTick s = .next { s with link := l, offsecs := BitVec.ofNat 16 n, framecount := 0 } := by
  rw [exec, execSecTick, h]
  rfl

/-- Rule 4 does not touch a decision of rules 1 to 3 that is below the budget. -/
theorem linkDecision_of_below {d : LinkDecision} (h : linkRules s.link s.framecount.toNat s.offsecs.toNat = d)
    (hd : d.secs < s.cfg.timeoutS) : linkDecision s = d := by
  rw [linkDecision, h, timeoutRule_below hd]

/-- Online with enough frames: no transition (R172). -/
theorem exec_secTick_stay (ho : s.offsecs.toNat < s.cfg.timeoutS) (hl : s.link = .online)
    (hf : 5 ≤ s.framecount.toNat) : exec .secTick s = .next { s with framecount := 0 } := by
  rw [exec_secTick_of_unchanged (linkDecision_of_below (linkRules_stay hl hf) ho), BitVec.ofNat_toNat,
    BitVec.setWidth_eq]

/-- Online with too few frames: the link goes Offline, and a new count starts (R172). -/
theorem exec_secTick_drop (hc : s.cfg.legal) (hl : s.link = .online) (hf : s.framecount.toNat < 5) :
    exec .secTick s = .next { s with
      link := .offline, offsecs := 0, framecount := 0, irqFlags := s.irqFlags ||| 0b00010#5 } :=
  exec_secTick_of_changed (linkDecision_of_below (linkRules_drop hl hf) (timeoutS_pos hc))

/-- Not Online, with a frame: the link goes Online and keeps its count (R173). -/
theorem exec_secTick_rise (ho : s.offsecs.toNat < s.cfg.timeoutS) (hl : s.link ≠ .online)
    (hf : 0 < s.framecount.toNat) :
    exec .secTick s = .next { s with
      link := .online, framecount := 0, irqFlags := s.irqFlags ||| 0b00010#5 } := by
  rw [exec_secTick_of_changed (linkDecision_of_below (linkRules_rise hl hf) ho), BitVec.ofNat_toNat,
    BitVec.setWidth_eq]

/-- Not Online, without a frame, inside the budget: the second is counted (R175). -/
theorem exec_secTick_count (hl : s.link ≠ .online) (hf : s.framecount.toNat = 0)
    (hn : s.offsecs.toNat + 1 < s.cfg.timeoutS) :
    exec .secTick s = .next { s with offsecs := BitVec.ofNat 16 (s.offsecs.toNat + 1), framecount := 0 } :=
  exec_secTick_of_unchanged (linkDecision_of_below (linkRules_count hl hf) hn)

/-- Not Online, without a frame, at the budget's last second: the link is TimedOut and its count starts anew
(R175, R176). -/
theorem exec_secTick_timeOut (hl : s.link ≠ .online) (hf : s.framecount.toNat = 0)
    (hn : s.cfg.timeoutS ≤ s.offsecs.toNat + 1) :
    exec .secTick s = .next { s with
      link := .timedOut, offsecs := 0, framecount := 0, irqFlags := s.irqFlags ||| 0b00010#5 } := by
  refine exec_secTick_of_changed (n := 0) ?_
  rw [linkDecision, linkRules_count hl hf, timeoutRule_reached hn]

/-- Settles O40, row by row; the rows of Offline and TimedOut are the same. -/
theorem aSecondTickFollowsTheTransitionTable : Obligations.ASecondTickFollowsTheTransitionTable := by
  intro s hc ho
  refine ⟨exec_secTick_stay ho, fun hl hf => ?_, exec_secTick_rise ho, exec_secTick_count, exec_secTick_timeOut⟩
  exact exec_secTick_drop hc hl (by omega)

/-! ## A silence of the whole budget, R175 and R176 -/

/-- A link whose count stands at `k` seconds without a frame. -/
def silentFor (k : Nat) (s : State) : State :=
  { s with offsecs := BitVec.ofNat 16 k }

theorem silentFor_zero (ho : s.offsecs = 0) : silentFor 0 s = s := by
  rw [silentFor, ← ho.trans BitVec.ofNat_eq_ofNat]

/-- Inside a legal budget the count is stored whole. -/
theorem silentFor_offsecs_toNat (hc : s.cfg.legal) {k : Nat} (hk : k < s.cfg.timeoutS) :
    (silentFor k s).offsecs.toNat = k := by
  obtain ⟨-, -, -, -, ⟨-, hmax⟩⟩ := hc
  exact (BitVec.toNat_ofNat k 16).trans (Nat.mod_eq_of_lt (by omega))

section
variable (hc : s.cfg.legal) (hf : s.framecount = 0) (hl : s.link ≠ .online)
include hc hf hl

/-- A silent second inside the budget counts one more. -/
theorem exec_secTick_silentFor {k : Nat} (hk : k + 1 < s.cfg.timeoutS) :
    exec .secTick (silentFor k s) = .next (silentFor (k + 1) s) := by
  have hn : (silentFor k s).offsecs.toNat = k := silentFor_offsecs_toNat hc (by omega)
  have hzero : (silentFor k s).framecount.toNat = 0 := congrArg BitVec.toNat hf
  rw [exec_secTick_count (s := silentFor k s) hl hzero (by rwa [hn]), hn]
  simp only [silentFor, hf]

/-- The silent second that fills the budget is the transition to TimedOut. -/
theorem exec_secTick_silentFor_last {k : Nat} (hk : k + 1 = s.cfg.timeoutS) :
    exec .secTick (silentFor k s) = .next { s with
      link := .timedOut, offsecs := 0, irqFlags := s.irqFlags ||| 0b00010#5 } := by
  have hn : (silentFor k s).offsecs.toNat = k := silentFor_offsecs_toNat hc (by omega)
  have hzero : (silentFor k s).framecount.toNat = 0 := congrArg BitVec.toNat hf
  rw [exec_secTick_timeOut (s := silentFor k s) hl hzero (by rw [hn]; exact hk.ge), silentFor, hf]

variable (ho : s.offsecs = 0)
include ho

/-- Inside the budget each of the second ticks counts one, without a transition. -/
theorem execAll_secTicks {k : Nat} (hk : k < s.cfg.timeoutS) :
    execAll (List.replicate k .secTick) s = .next (silentFor k s) := by
  induction k with
  | zero => rw [silentFor_zero ho]; rfl
  | succ k ih =>
    rw [List.replicate_succ', execAll_append (ih (by omega)), execAll_cons (exec_secTick_silentFor hc hf hl hk), execAll]

/-- As many second ticks as the budget has make the link TimedOut. -/
theorem execAll_secTicks_budget :
    execAll (List.replicate s.cfg.timeoutS .secTick) s = .next { s with
      link := .timedOut, offsecs := 0, irqFlags := s.irqFlags ||| 0b00010#5 } := by
  obtain ⟨k, hk⟩ := Nat.exists_eq_add_one.mpr (timeoutS_pos hc)
  have hstep := exec_secTick_silentFor_last hc hf hl hk.symm
  rw [hk, List.replicate_succ', execAll_append (execAll_secTicks hc hf hl ho (by omega)), execAll_cons hstep, execAll]

end

/-- A link gone Offline, with LINKCHG set and its count at 0. -/
def goneOffline (s : State) : State :=
  { s with link := .offline, offsecs := 0, irqFlags := s.irqFlags ||| 0b00010#5 }

/-- From Online the first silent second goes Offline (R175). -/
theorem exec_secTick_online (hc : s.cfg.legal) (hf : s.framecount = 0) (hl : s.link = .online) :
    exec .secTick s = .next (goneOffline s) := by
  rw [exec_secTick_drop hc hl (by rw [hf]; decide), goneOffline, hf]

/-- Settles O42: by induction on the ticks the silence is counted up to the budget; from Online the first tick goes
Offline with OFFSECS = 0, and the rest is the silence from there. -/
theorem silenceForTheWholeBudgetTimesOut : Obligations.SilenceForTheWholeBudgetTimesOut := by
  intro s hc hf
  refine ⟨fun hl ho => ⟨fun k => execAll_secTicks hc hf hl ho, ?_⟩, fun hl => ⟨fun k hk => ?_, ?_⟩⟩
  · rw [execAll_secTicks_budget hc hf hl ho, ho]
  · rw [List.replicate_succ, execAll_cons (exec_secTick_online hc hf hl)]
    exact execAll_secTicks (s := goneOffline s) hc hf Link.noConfusion rfl hk
  · rw [List.replicate_succ, execAll_cons (exec_secTick_online hc hf hl)]
    refine (execAll_secTicks_budget (s := goneOffline s) hc hf Link.noConfusion rfl).trans ?_
    rw [goneOffline, BitVec.or_assoc, BitVec.or_self]

/-! ## The writers of LINK, OFFSECS and FRAMECOUNT, R170 -/

variable {i : Instr}

/-- An instruction other than SEC_TICK and RESET leaves LINK and OFFSECS. -/
theorem Effect.keeps_link (h : Effect i s t) (hsec : i ≠ .secTick) (hreset : i ≠ .reset) :
    t.link = s.link ∧ t.offsecs = s.offsecs := by
  cases h with
  | second => exact absurd rfl hsec
  | transition => exact absurd rfl hsec
  | reset => exact absurd rfl hreset
  | resetAbort => exact absurd rfl hreset
  | _ => simp

/-- FRAMECOUNT after an instruction: as before, a valid frame more, or anew after SEC_TICK or RESET. -/
theorem Effect.framecount_cases (h : Effect i s t) :
    t.framecount = s.framecount ∨
      (i = .tbTick ∧ frameValid s.cfg s.acc = true ∧ t.framecount = satInc16 s.framecount) ∨
      i = .secTick ∨ i = .reset := by
  cases h with
  | latch _ hv => exact .inr (.inl ⟨rfl, hv, rfl⟩)
  | second => exact .inr (.inr (.inl rfl))
  | transition => exact .inr (.inr (.inl rfl))
  | reset => exact .inr (.inr (.inr rfl))
  | resetAbort => exact .inr (.inr (.inr rfl))
  | _ => exact .inl (by simp)

/-- Settles O41: the one effect besides those of SEC_TICK and RESET that writes any of the three is the latch of a
valid frame, which counts it. -/
theorem onlyTheSecondTickAndResetWriteTheLink : Obligations.OnlyTheSecondTickAndResetWriteTheLink := by
  intro i s t h hsec hreset
  have heffect := exec_effect h
  obtain ⟨hlink, hoffsecs⟩ := heffect.keeps_link hsec hreset
  refine ⟨hlink, hoffsecs, fun hne => ?_⟩
  rcases heffect.framecount_cases with he | ⟨hi, hv, he⟩ | hi | hi
  · exact absurd he hne
  · obtain ⟨hlen, hstart⟩ := frameValid_iff.mp hv
    exact ⟨hi, hlen, hstart, by rw [he, satInc16_toNat]⟩
  · exact absurd hi hsec
  · exact absurd hi hreset

end Sys2Proof.Machine

/-! PROOFS. The DMX frame receiver (44_dmx_receiver.md): where a byte goes (R180, R181), when a tick evaluates (R183 to
R185), and what a valid and an invalid frame leave (R186 to R188). -/
namespace Sys2Proof.Machine

variable {s : State}

/-! ## A received byte, R180 and R181 -/

/-- The byte appended is the one too many exactly when acc was full. -/
theorem accMax_lt_appendByte_length {b : Byte} :
    accMax < (appendByte b s).acc.length ↔ accMax ≤ s.acc.length := by
  rw [appendByte_acc, List.length_append, List.length_singleton, Nat.lt_succ_iff]

theorem exec_rxByte_append {b : Byte} (hl : s.acc.length < accMax) :
    exec (.rxByte b) s = .next (appendByte b s) :=
  if_neg (accMax_lt_appendByte_length.not.mpr hl.not_ge)

theorem exec_rxByte_discard {b : Byte} (hl : accMax ≤ s.acc.length) :
    exec (.rxByte b) s = .next (discardAcc (appendByte b s)) :=
  if_pos (accMax_lt_appendByte_length.mpr hl)

/-- Settles O36: below 600 bytes the byte is appended, at 600 the discard follows. -/
theorem aReceivedByteIsAppendedOrOverflows : Obligations.AReceivedByteIsAppendedOrOverflows :=
  fun _ _ => ⟨exec_rxByte_append, exec_rxByte_discard⟩

/-! ## A tick of the time base, R183 to R185 -/

/-- The silence after a tick, which the threshold is compared with. -/
theorem countTick_idle_toNat : (countTick s).idle.toNat = min (s.idle.toNat + 1) 65535 :=
  satInc16_toNat s.idle

theorem exec_tbTick_count
    (h : s.armed = false ∨ min (s.idle.toNat + 1) 65535 ≤ s.cfg.silenceTicks) :
    exec .tbTick s = .next (countTick s) := by
  refine if_neg fun hc => ?_
  rw [countTick_idle_toNat, Bool.and_eq_true, decide_eq_true_iff] at hc
  obtain ⟨harmed, hpast⟩ := hc
  rcases h with hunarmed | hwithin
  · exact Bool.noConfusion (hunarmed.symm.trans harmed)
  · exact hpast.not_ge hwithin

theorem exec_tbTick_evaluate (harmed : s.armed = true)
    (hpast : s.cfg.silenceTicks < min (s.idle.toNat + 1) 65535) :
    exec .tbTick s = .next (evaluate (countTick s)) := by
  refine if_pos ?_
  rw [countTick_idle_toNat, Bool.and_eq_true, decide_eq_true_iff]
  exact ⟨harmed, hpast⟩

/-- The two outcomes of EVALUATE: a valid frame is latched, another is not (R186 to R188). -/
theorem evaluate_of_valid (hv : frameValid s.cfg s.acc = true) : evaluate s = consumeAcc (latch s) :=
  if_pos hv

theorem evaluate_of_invalid (hv : ¬ frameValid s.cfg s.acc = true) : evaluate s = consumeAcc s :=
  if_neg hv

/-- Whatever the frame, EVALUATE empties acc, disarms, and reaches no more than what LATCH writes (R185, R187). -/
theorem evaluate_frame : evaluate s = { s with
    acc := [], armed := false
    snap := (evaluate s).snap, framecount := (evaluate s).framecount
    snapseq := (evaluate s).snapseq, irqFlags := (evaluate s).irqFlags } := by
  by_cases hv : frameValid s.cfg s.acc = true
  · rw [evaluate_of_valid hv]; rfl
  · rw [evaluate_of_invalid hv]; rfl

/-- Settles O37: on either side of the threshold, and by the frame of EVALUATE past it. -/
theorem aTickCountsAndEvaluatesPastTheThreshold : Obligations.ATickCountsAndEvaluatesPastTheThreshold :=
  fun _ => ⟨exec_tbTick_count, fun ha hi => ⟨_, exec_tbTick_evaluate ha hi, evaluate_frame⟩⟩

/-! ## A valid frame, R187 -/

/-- A frame that covers the window fills the snapshot. -/
theorem latch_snap_length (hlen : s.cfg.base + s.cfg.count ≤ s.acc.length) :
    (latch s).snap.length = s.cfg.count := by
  rw [latch_snap, List.length_take, List.length_drop]
  omega

/-- Byte `i` of the snapshot is byte `i` of the window. -/
theorem latch_snap_getElem? {i : Nat} (hi : i < s.cfg.count) :
    (latch s).snap[i]? = s.acc[s.cfg.base + i]? := by
  rw [latch_snap, List.getElem?_take_of_lt hi, List.getElem?_drop]

/-- What LATCH does beside the snapshot: FRAMECOUNT saturates, SNAPSEQ wraps, CHUPD is bit 0. -/
theorem latch_eq (s : State) : latch s = { s with
    snap := (latch s).snap
    framecount := BitVec.ofNat 16 (min (s.framecount.toNat + 1) 65535)
    snapseq := BitVec.ofNat 16 ((s.snapseq.toNat + 1) % 65536)
    irqFlags := s.irqFlags ||| 0b00001#5 } := by
  have hseq : BitVec.ofNat 16 ((s.snapseq.toNat + 1) % 65536) = s.snapseq + 1 := by bv_omega
  rw [hseq]
  rfl

/-- Settles O38: the valid frame past the threshold is evaluated, so latched and consumed. -/
theorem aValidFrameIsLatched : Obligations.AValidFrameIsLatched := by
  intro s ha hi hlen hstart
  have hv : frameValid s.cfg s.acc = true := frameValid_iff.mpr ⟨hlen, hstart⟩
  have hexec : exec .tbTick s = .next (consumeAcc (latch (countTick s))) := by
    rw [exec_tbTick_evaluate ha hi, evaluate_of_valid (s := countTick s) hv]
  exact ⟨_, hexec, latch_snap_length (s := countTick s) hlen, fun _ => latch_snap_getElem? (s := countTick s),
    congrArg consumeAcc (latch_eq (countTick s))⟩

/-! ## An invalid frame, R188 -/

/-- The two ways to be invalid (R186). -/
theorem not_frameValid_iff {cfg : Config} {acc : List Byte} :
    ¬ frameValid cfg acc = true ↔ acc.length < cfg.base + cfg.count ∨ acc[0]? ≠ some 0x00#8 := by
  rw [frameValid_iff, not_and_or, not_le]

/-- Settles O39: the invalid frame past the threshold is evaluated, so consumed and no more. -/
theorem anInvalidFrameLeavesNoTrace : Obligations.AnInvalidFrameLeavesNoTrace := by
  intro s ha hi hbad
  rw [exec_tbTick_evaluate ha hi, evaluate_of_invalid (s := countTick s) (not_frameValid_iff.mpr hbad)]
  rfl

end Sys2Proof.Machine

/-! PROOFS. The LED transmitter (45_transmitter.md): which step a turn takes (R201 to R204, R157), what each step does
(R201 to R205), and the transmission of a whole buffer (R206). -/
namespace Sys2Proof.Machine

variable {s t : State}

/-! ## The turns of LF and TX, and of FE -/

/-! The guards of TX exclude each other (R201 to R203): at rest by dirty, during a transmission by the index. -/

theorem txEnabled_of_dirty (hb : s.txBusy = false) (hd : s.dirty = true) : txEnabled s = some .txStart := by
  simp [txEnabled, hb, hd]

theorem txEnabled_of_clean (hb : s.txBusy = false) (hd : s.dirty = false) : txEnabled s = none := by
  simp [txEnabled, hb, hd]

theorem txEnabled_of_sending (hb : s.txBusy = true) (hi : s.txIdx ≤ s.cfg.npix + 1) :
    txEnabled s = some .txBit := by
  simp [txEnabled, hb, hi]

theorem txEnabled_of_sent (hb : s.txBusy = true) (hi : s.txIdx = s.cfg.npix + 2) : txEnabled s = some .txEnd := by
  simp [txEnabled, hb, hi]

section
variable {xs : List Turn} (hl : s.cfg.legal)
include hl

/-- The fault line, high during a transmission, comes before TX. -/
theorem step_led_fault {go : Bool} (ht : s.turns = .led true go :: xs) (hb : s.txBusy = true) :
    step s = exec .txFault { s with turns := xs } := by
  rw [step_turn hl ht]
  exact congrArg runFetched (if_pos hb)

/-- Else TX takes the step it has enabled, if any. -/
theorem step_led_go {fault : Bool} (ht : s.turns = .led fault true :: xs) (hf : fault = true → s.txBusy = false) :
    step s = runFetched (runOrPass (txEnabled s) { s with turns := xs }) := by
  have hnofault : ¬ (fault && s.txBusy) = true := by
    rw [Bool.and_eq_true]
    rintro ⟨hfault, hbusy⟩
    rw [hf hfault] at hbusy
    cases hbusy
  rw [step_turn hl ht]
  exact congrArg runFetched (if_neg hnofault)

theorem step_led_enabled {fault : Bool} {i : Instr} (ht : s.turns = .led fault true :: xs)
    (hf : fault = true → s.txBusy = false) (he : txEnabled s = some i) :
    step s = exec i { s with turns := xs } := by
  rw [step_led_go hl ht hf, he, runOrPass, runFetched]

theorem step_led_idle {fault : Bool} (ht : s.turns = .led fault true :: xs)
    (hf : fault = true → s.txBusy = false) (he : txEnabled s = none) :
    step s = .next { s with turns := xs } := by
  rw [step_led_go hl ht hf, he, runOrPass, runFetched]

theorem step_fill_enabled (ht : s.turns = .fill true :: xs) (hb : s.feBusy = true) :
    step s = exec .fillStep { s with turns := xs } := by
  rw [step_turn hl ht]
  exact congrArg runFetched (if_pos hb)

theorem step_fill_idle (ht : s.turns = .fill true :: xs) (hb : s.feBusy = false) :
    step s = .next { s with turns := xs } := by
  rw [step_turn hl ht]
  exact congrArg runFetched (if_neg (by simp [hb]))

end

/-- Settles O8: the fault first, else the step of TX by its guard; FE's step by its own. -/
theorem anAgentsTurnRunsItsEnabledStep : Obligations.AnAgentsTurnRunsItsEnabledStep := by
  intro s ts hlegal
  refine ⟨fun go => step_led_fault hlegal, fun fault hturns hfault => ?_, fun hturns => ?_⟩
  · exact ⟨fun hb hd => step_led_enabled hlegal hturns hfault (txEnabled_of_dirty hb hd),
      fun hb hd => step_led_idle hlegal hturns hfault (txEnabled_of_clean hb hd),
      fun hb hi => step_led_enabled hlegal hturns hfault (txEnabled_of_sending hb hi),
      fun hb hi => step_led_enabled hlegal hturns hfault (txEnabled_of_sent hb hi)⟩
  · exact ⟨step_fill_enabled hlegal hturns, step_fill_idle hlegal hturns⟩

/-! ## TX_START, R201 -/

/-- Enabled, TX_START writes both markers and begins. -/
theorem exec_txStart_of_dirty (hmem : Memory.wf s) (hb : s.txBusy = false) (hd : s.dirty = true) :
    exec .txStart s = .next (txBegin (withMarkers s)) := by
  have hstart := writeBuf_some hmem (i := 0) (Nat.zero_le _) s.cfg.startMarker
  have hend := writeBuf_some (writeBuf_wf hmem hstart) (i := s.cfg.npix + 1) le_rfl s.cfg.endMarker
  rw [exec, execTxStart, if_pos ⟨hb, hd⟩, hstart, orAbsent, hend, orAbsent]
  rfl

/-- The buffer with its markers, word by word. -/
theorem withMarkers_getElem?_eq (hmem : Memory.wf s) (j : Nat) :
    (withMarkers s).buf[j]? = if j = 0 then some s.cfg.startMarker
      else if j = s.cfg.npix + 1 then some s.cfg.endMarker else s.buf[j]? := by
  have hlen : s.buf.length = s.cfg.npix + 2 := hmem.2.2
  split_ifs with h0 he
  · subst h0
    rw [withMarkers, List.getElem?_set_ne (by omega), List.getElem?_set_self (by omega)]
  · subst he
    rw [withMarkers, List.getElem?_set_self (by rw [List.length_set]; omega)]
  · exact withMarkers_getElem? h0 he

/-- Settles O43: the markers are written where the step is enabled, and its guard fails in the last clause. -/
theorem txStartWritesTheMarkersAndBegins : Obligations.TxStartWritesTheMarkersAndBegins := by
  refine fun s => ⟨fun hb hd hmem => ?_, fun h => if_neg ?_⟩
  · exact ⟨_, exec_txStart_of_dirty hmem hb hd, withMarkers_getElem?_eq hmem, rfl⟩
  · rintro ⟨hb, hd⟩
    simp [hb, hd] at h

/-! ## TX_BIT, R202 and R205 -/

/-- At its first bit the word being sent is the buffer's. -/
theorem txCurrent_first (h : s.txBit = 31) : txCurrent s = s.buf[s.txIdx]? :=
  if_pos h

/-- At a later bit it is the latched one. -/
theorem txCurrent_later (h : s.txBit ≠ 31) : txCurrent s = some s.txWord :=
  if_neg h

/-- During a transmission there is a word to send. -/
theorem txCurrent_some (hmem : Memory.wf s) (hi : s.txIdx ≤ s.cfg.npix + 1) : ∃ w, txCurrent s = some w := by
  by_cases h : s.txBit = 31
  · rw [txCurrent_first h]
    exact readBuf_some hmem hi
  · exact ⟨_, txCurrent_later h⟩

/-- After bit 0 the counters go on to the next word, else to the next bit. -/
theorem txAdvance_eq (s : State) : txAdvance s = { s with
    txIdx := if s.txBit = 0 then s.txIdx + 1 else s.txIdx
    txBit := if s.txBit = 0 then 31 else s.txBit - 1 } := by
  by_cases h0 : s.txBit = 0
  · rw [txAdvance_last h0, if_pos h0, if_pos h0]
  · rw [txAdvance_next h0, if_neg h0, if_neg h0]

/-- Enabled, TX_BIT sends one bit of the current word and goes on. -/
theorem exec_txBit_of_current {w : Word} (hb : s.txBusy = true) (hi : s.txIdx ≤ s.cfg.npix + 1)
    (hw : txCurrent s = some w) :
    exec .txBit s = .next { s with
      txWord := w
      txIdx := if s.txBit = 0 then s.txIdx + 1 else s.txIdx
      txBit := if s.txBit = 0 then 31 else s.txBit - 1
      ledClk := false, ledData := w.getLsbD s.txBit.val
      wire := s.wire ++ [.bit (w.getLsbD s.txBit.val)] } := by
  rw [exec, execTxBit, if_pos ⟨hb, hi⟩, hw, orAbsent]
  exact congrArg Host.Outcome.next (txAdvance_eq _)

/-- Settles O44: the word is the current one, from the buffer or latched. -/
theorem txBitSendsTheNextBit : Obligations.TxBitSendsTheNextBit := by
  intro s hmem hb hi
  obtain ⟨w, hw⟩ := txCurrent_some hmem hi
  refine ⟨w, fun hfirst => ?_, fun hlater => ?_, exec_txBit_of_current hb hi hw⟩
  · rw [← txCurrent_first hfirst, hw]
  · rw [txCurrent_later hlater] at hw
    exact (Option.some.inj hw).symm

/-! ## TX_END and TX_FAULT, R203 and R204 -/

/-- After the last word TX_END clears dirty and puts the transmitter to rest. -/
theorem exec_txEnd_of_sent (hb : s.txBusy = true) (hi : s.txIdx = s.cfg.npix + 2) :
    exec .txEnd s = .next { txRest s with dirty := false } :=
  if_pos ⟨hb, hi⟩

/-- Settles O45: after the last word TX rests; the guard fails in the last clause. -/
theorem txEndClearsDirty : Obligations.TxEndClearsDirty := by
  refine fun s => ⟨fun hb hi => ⟨_, exec_txEnd_of_sent hb hi, rfl⟩, fun h => if_neg ?_⟩
  rintro ⟨hb, hi⟩
  simp [hb, hi] at h

/-- During a transmission TX_FAULT aborts it and raises TXERR. -/
theorem exec_txFault_of_busy (hb : s.txBusy = true) : exec .txFault s = .next (setFlag .txerr (txAbort s)) :=
  if_pos hb

/-- Settles O46: an abort and TXERR during a transmission, nothing without one. -/
theorem txFaultAbortsAndKeepsDirty : Obligations.TxFaultAbortsAndKeepsDirty :=
  fun _ => ⟨fun hb => ⟨_, exec_txFault_of_busy hb, rfl⟩, fun hb => if_neg (by simp [hb])⟩

/-! ## The transmission of a whole buffer, R206 -/

/-- The 32 bits of a word on the wire, bit 31 first (R205). -/
def wordBits (w : Word) : List WireEvent :=
  (List.range 32).map fun k => .bit (w.getLsbD (31 - k))

/-- Bit `k` of a transmission is bit `31 - k % 32` of word `k / 32`. -/
theorem flatMap_wordBits_getElem? (buf : List Word) (k : Nat) :
    (buf.flatMap wordBits)[k]? = buf[k / 32]?.map fun w => .bit (w.getLsbD (31 - k % 32)) := by
  induction buf generalizing k with
  | nil => rfl
  | cons w ws ih =>
    have hlen : (wordBits w).length = 32 := rfl
    rw [List.flatMap_cons]
    rcases lt_or_ge k 32 with hk | hk
    · rw [List.getElem?_append_left (by omega), Nat.div_eq_of_lt hk, Nat.mod_eq_of_lt hk]
      simp [wordBits, hk]
    · obtain ⟨j, rfl⟩ := Nat.exists_eq_add_of_le' hk
      rw [List.getElem?_append_right (by omega), hlen, Nat.add_sub_cancel, ih,
        Nat.add_div_right j (by decide), Nat.add_mod_right, List.getElem?_cons_succ]

theorem flatMap_wordBits_length (buf : List Word) : (buf.flatMap wordBits).length = 32 * buf.length := by
  induction buf with
  | nil => rfl
  | cons w ws ih =>
    have hlen : (wordBits w).length = 32 := rfl
    rw [List.flatMap_cons, List.length_append, ih, hlen, List.length_cons]
    omega

/-- `t` is a transmission begun in `s` with `k` of its bits sent. -/
structure SentBits (s : State) (k : Nat) (t : State) : Prop where
  cfg : t.cfg = s.cfg
  buf : t.buf = s.buf
  busy : t.txBusy = true
  idx : t.txIdx = k / 32
  bit : t.txBit.val = 31 - k % 32
  word : k % 32 ≠ 0 → s.buf[k / 32]? = some t.txWord
  wire : t.wire = s.wire ++ .start :: (s.buf.flatMap wordBits).take k

/-- TX_START begins with no bit sent. -/
theorem sentBits_txBegin (s : State) : SentBits s 0 (txBegin s) where
  cfg := rfl
  buf := rfl
  busy := rfl
  idx := rfl
  bit := rfl
  word := fun hne => absurd rfl hne
  wire := by rw [List.take_zero]; rfl

theorem SentBits.txBit_eq_31_iff {k : Nat} (h : SentBits s k t) : t.txBit = 31 ↔ k % 32 = 0 := by
  rw [Fin.ext_iff, h.bit]
  change 31 - k % 32 = 31 ↔ k % 32 = 0
  omega

theorem SentBits.txBit_eq_zero_iff {k : Nat} (h : SentBits s k t) : t.txBit = 0 ↔ k % 32 = 31 := by
  rw [← Fin.val_eq_zero_iff, h.bit]
  omega

/-- The word being sent is the buffer's, at its first bit and as latched. -/
theorem SentBits.txCurrent_eq {k : Nat} (h : SentBits s k t) : txCurrent t = s.buf[k / 32]? := by
  by_cases hfirst : k % 32 = 0
  · rw [txCurrent_first (h.txBit_eq_31_iff.mpr hfirst), h.buf, h.idx]
  · rw [txCurrent_later (h.txBit_eq_31_iff.not.mpr hfirst), h.word hfirst]

/-- The index goes on with the number of bits sent. -/
theorem SentBits.next_idx {k : Nat} (h : SentBits s k t) :
    (if t.txBit = 0 then t.txIdx + 1 else t.txIdx) = (k + 1) / 32 := by
  have hmod := h.txBit_eq_zero_iff
  rw [h.idx]
  split_ifs <;> omega

/-- So does the bit position. -/
theorem SentBits.next_bit {k : Nat} (h : SentBits s k t) :
    (if t.txBit = 0 then 31 else t.txBit - 1).val = 31 - (k + 1) % 32 := by
  have hmod := h.txBit_eq_zero_iff
  split_ifs with h0
  · change 31 = 31 - (k + 1) % 32
    omega
  · rw [Fin.val_sub_one_of_ne_zero h0, h.bit]
    omega

/-- While bits are left, TX_BIT sends the next one. -/
theorem SentBits.exec_txBit {k : Nat} (h : SentBits s k t) (hmem : Memory.wf s) (hk : k < 32 * (s.cfg.npix + 2)) :
    ∃ u, exec .txBit t = .next u ∧ SentBits s (k + 1) u := by
  have hidx : k / 32 ≤ s.cfg.npix + 1 := by omega
  obtain ⟨w, hw⟩ : ∃ w, s.buf[k / 32]? = some w := readBuf_some hmem hidx
  have hexec := exec_txBit_of_current h.busy (by rwa [h.idx, h.cfg]) (h.txCurrent_eq.trans hw)
  have hsent : (s.buf.flatMap wordBits)[k]? = some (.bit (w.getLsbD t.txBit.val)) := by
    rw [flatMap_wordBits_getElem?, hw, h.bit, Option.map_some]
  refine ⟨_, hexec, { h with idx := h.next_idx, bit := h.next_bit, word := fun hne => ?_, wire := ?_ }⟩
  · rw [show (k + 1) / 32 = k / 32 by omega, hw]
  · rw [h.wire, List.take_add_one, hsent, List.append_assoc]
    rfl

/-- Each TX_BIT sends one bit, as long as the buffer has more. -/
theorem SentBits.execAll_txBits (h : SentBits s 0 t) (hmem : Memory.wf s) {k : Nat}
    (hk : k ≤ 32 * (s.cfg.npix + 2)) :
    ∃ u, execAll (List.replicate k .txBit) t = .next u ∧ SentBits s k u := by
  induction k with
  | zero => exact ⟨t, rfl, h⟩
  | succ k ih =>
    obtain ⟨u, hu, hsent⟩ := ih (by omega)
    obtain ⟨v, hv, hsent'⟩ := hsent.exec_txBit hmem hk
    exact ⟨v, by rw [List.replicate_succ', execAll_append hu, execAll_cons hv, execAll], hsent'⟩

/-- After all its bits the transmission is at its end, with the whole buffer on the wire. -/
theorem SentBits.complete (h : SentBits s (32 * (s.cfg.npix + 2)) t) (hmem : Memory.wf s) :
    t.txIdx = t.cfg.npix + 2 ∧ t.wire = s.wire ++ .start :: s.buf.flatMap wordBits := by
  have hlen : (s.buf.flatMap wordBits).length = 32 * (s.cfg.npix + 2) := by
    rw [flatMap_wordBits_length, hmem.2.2]
  constructor
  · rw [h.idx, h.cfg, Nat.mul_div_cancel_left _ (by decide)]
  · rw [h.wire, List.take_of_length_le hlen.le]

/-- Settles O48: TX_START finds the markers in place and begins, the bits follow by induction, and TX_END is enabled
after the last. -/
theorem aWholeTransmissionSendsTheBuffer : Obligations.AWholeTransmissionSendsTheBuffer := by
  intro s hinv hb hd
  have hstart : exec .txStart s = .next (txBegin s) := by
    rw [exec_txStart_of_dirty hinv.memory hb hd, withMarkers_eq_self hinv]
  obtain ⟨t, hbits, hsent⟩ := (sentBits_txBegin s).execAll_txBits hinv.memory le_rfl
  obtain ⟨hidx, hwire⟩ := hsent.complete hinv.memory
  have hend := exec_txEnd_of_sent hsent.busy hidx
  refine ⟨{ txRest t with dirty := false }, ?_, hwire, rfl, rfl, hsent.buf, rfl, rfl⟩
  rw [execAll_cons hstart, execAll_append hbits, execAll_cons hend, execAll]

end Sys2Proof.Machine

/-! PROOFS. Events, errors and agents (60_exceptions.md): the block never halts (R220), what a refused access does
(R221), which step raises which flag (R222, R225), and the turns of a clock cycle (R241). -/
namespace Sys2Proof.Machine

variable {s t : State}

/-! ## The block never halts, R220 -/

/-- A choice has a next state when each of its branches has one. -/
theorem exists_ite_eq_next {p : Prop} [Decidable p] {x y : Host.Outcome State Fault Refusal}
    (hx : p → ∃ t, x = .next t) (hy : ¬ p → ∃ t, y = .next t) : ∃ t, (if p then x else y) = .next t := by
  split_ifs with h
  exacts [hx h, hy h]

theorem exists_cmdWrite_eq_next (v : Word) (e : State → State) (s : State) : ∃ t, cmdWrite v e s = .next t :=
  exists_ite_eq_next (fun _ => ⟨_, rfl⟩) (fun _ => ⟨_, rfl⟩)

/-- In a state that meets the invariant no instruction stops: its memories have the words it needs, and a fill's range
lies inside the pixels. -/
theorem Inv.exists_exec_eq_next (h : Inv s) (i : Instr) : ∃ t, exec i s = .next t := by
  cases i with
  | nop | fill | clear | encodeCmd | reservedOp | reservedRsv => exact exists_cmdWrite_eq_next ..
  | wrCmd v =>
    rw [exec, execWrCmd_eq]
    exact exists_cmdWrite_eq_next ..
  | rdSnap i =>
    refine exists_ite_eq_next (fun hi => ?_) (fun _ => ⟨_, rfl⟩)
    obtain ⟨b, hb⟩ := readSnap_some h.memory hi
    rw [hb]
    exact ⟨_, rfl⟩
  | rdPixbuf i =>
    refine exists_ite_eq_next (fun hi => ?_) (fun _ => ⟨_, rfl⟩)
    obtain ⟨w, hw⟩ := readBuf_some h.memory hi
    rw [hw]
    exact ⟨_, rfl⟩
  | rxByte | tbTick | secTick | txFault | txEnd | reset =>
    exact exists_ite_eq_next (fun _ => ⟨_, rfl⟩) (fun _ => ⟨_, rfl⟩)
  | fillStep =>
    by_cases hb : s.feBusy = true
    · obtain ⟨hfirst, hrange, hlast, -⟩ := h.fill hb
      exact ⟨_, execFillStep_of_range hb hfirst hlast h.memory hrange⟩
    · exact ⟨s, if_neg hb⟩
  | txStart =>
    by_cases hg : s.txBusy = false ∧ s.dirty = true
    · exact ⟨_, exec_txStart_of_dirty h.memory hg.1 hg.2⟩
    · exact ⟨s, if_neg hg⟩
  | txBit =>
    by_cases hg : s.txBusy = true ∧ s.txIdx ≤ s.cfg.npix + 1
    · obtain ⟨w, hw⟩ := txCurrent_some h.memory hg.2
      exact ⟨_, exec_txBit_of_current hg.1 hg.2 hw⟩
    · exact ⟨s, if_neg hg⟩
  | _ => exact ⟨_, rfl⟩

/-- No turn stops: it runs an instruction on the same block, or answers a refused access, or passes. -/
theorem Inv.exists_runTurn_eq_next (h : Inv s) (x : Turn) : ∃ t, runTurn x s = .next t := by
  unfold runTurn
  rcases fetch_frame x s with ⟨i, u, hf, hu⟩ | ⟨u, hf, -⟩ | hf <;> rw [hf]
  · exact (sameBlock_inv hu h).exists_exec_eq_next i
  · exact ⟨_, rfl⟩
  · exact ⟨_, rfl⟩

/-- No step stops: it is the clock edge or a turn, in a legal configuration. -/
theorem Inv.exists_step_eq_next (h : Inv s) : ∃ t, step s = .next t := by
  cases hturns : s.turns with
  | nil => exact ⟨_, step_edge h.legal hturns⟩
  | cons x xs =>
    rw [step_turn h.legal hturns]
    exact Inv.exists_runTurn_eq_next (s := { s with turns := xs }) { h with } x

/-- Settles O53, by induction on the number of steps: each has a next state, which meets the invariant again. -/
theorem theBlockNeverHalts : Obligations.TheBlockNeverHalts := by
  intro n
  induction n with
  | zero => exact fun s hs => ⟨s, core_run_zero s, hs⟩
  | succ n ih =>
    intro s hs
    obtain ⟨t, ht⟩ := hs.exists_step_eq_next
    obtain ⟨u, hu, hinv⟩ := ih t (everyStepKeepsTheInvariants s t hs ht)
    exact ⟨u, (core_run_succ ht).trans hu, hinv⟩

/-! ## A refused access, R221 -/

/-- The host's turn answers an operation the decoder refuses, whatever the cause. -/
theorem step_host_refused {xs : List Turn} {op : HostOp} {ops : List HostOp} {c : BusErrorCause} (hl : s.cfg.legal)
    (ht : s.turns = .host true :: xs) (hw : s.cmdWait = none) (hq : s.hostQueue = op :: ops)
    (hd : decode s.cfg (.host op) = .busError c) :
    step s = .next (busError { s with turns := xs, hostQueue := ops }) := by
  rw [step_turn hl ht]
  simp [runTurn, fetch, fetchHost, fetchOp, runFetched, hw, hq, hd]

/-- Settles O9: an access outside the map of its direction is refused (R100), and its refusal is answered. -/
theorem aRefusedAccessIsAnsweredAndChangesNothing : Obligations.ARefusedAccessIsAnsweredAndChangesNothing := by
  intro s width off d op ops ts hlegal hwait hturns hqueue hop
  obtain ⟨-, -, hread, hwrite⟩ := anAccessIsRefusedExactlyWhenTheCheckFails s.cfg width off d hlegal
  have hrefused : ∃ c, decode s.cfg (.host op) = .busError c := by
    rcases hop with ⟨rfl, hbad⟩ | ⟨rfl, hbad⟩
    exacts [hread.mpr hbad, hwrite.mpr hbad]
  obtain ⟨c, hc⟩ := hrefused
  exact step_host_refused hlegal hturns hwait hqueue hc

/-! ## Which step raises which flag, R222 and R225 -/

/-- The "raised by" column of R222; the reserved words of CMD are those from 4 on (R81). -/
inductive RaisedBy : Flag → Instr → Prop where
  | tbTick : RaisedBy .chupd .tbTick
  | secTick : RaisedBy .linkchg .secTick
  | rxByte (b : Byte) : RaisedBy .ovf (.rxByte b)
  | txFault : RaisedBy .txerr .txFault
  | wrCmd {v : Word} (hv : 4 ≤ v.toNat) : RaisedBy .cmderr (.wrCmd v)
  | reservedOp (o : BitVec 4) : RaisedBy .cmderr (.reservedOp o)
  | reservedRsv (r : BitVec 28) (x : BitVec 4) : RaisedBy .cmderr (.reservedRsv r x)

/-- A word written to CMD that decodes to a reserved command is 4 or more (R81). -/
theorem four_le_of_decodeCmd_reserved {v : Word}
    (h : (∃ o, decodeCmd v = .reservedOp o) ∨ ∃ r x, decodeCmd v = .reservedRsv r x) : 4 ≤ v.toNat := by
  obtain ⟨-, -, -, -, hrsv, hop⟩ := exactlyFourWordsAreCommands v
  rcases h with ho | hr
  · exact (hop.mp ho).1
  · exact le_trans (by decide) (hrsv.mp hr)

/-- A reserved command stands in the column of CMDERR, whichever way it was told. -/
theorem IsCommand.raisedBy_cmderr {i : Instr} {v : Word} {c : Cmd} (h : IsCommand i v c)
    (hc : (∃ o, c = .reservedOp o) ∨ ∃ r x, c = .reservedRsv r x) : RaisedBy .cmderr i := by
  cases h with
  | wrCmd v => exact .wrCmd (four_le_of_decodeCmd_reserved hc)
  | reservedOp o => exact .reservedOp o
  | reservedRsv r x => exact .reservedRsv r x
  | _ => simp at hc

/-- An instruction raises no flag, or sets the one in whose column it stands (R225). -/
theorem Effect.raised_cases {i : Instr} (h : Effect i s t) :
    (∀ k, t.irqFlags.getLsbD k = true → s.irqFlags.getLsbD k = true) ∨
      ∃ f, RaisedBy f i ∧ t.irqFlags = (setFlag f s).irqFlags := by
  cases h with
  | irqFlags d =>
    refine .inl fun k hk => ?_
    rw [respond_irqFlags, clearFlags_irqFlags, BitVec.getLsbD_and, Bool.and_eq_true] at hk
    exact hk.1
  | command hi hb =>
    rcases cmdEffect_irqFlags s _ with hc | ⟨hreserved, hc⟩
    · exact .inl fun k hk => by rwa [respond_irqFlags, hc] at hk
    · exact .inr ⟨.cmderr, hi.raisedBy_cmderr hreserved, hc⟩
  | discard b => exact .inr ⟨.ovf, .rxByte b, rfl⟩
  | latch => exact .inr ⟨.chupd, .tbTick, rfl⟩
  | transition => exact .inr ⟨.linkchg, .secTick, rfl⟩
  | txFault => exact .inr ⟨.txerr, .txFault, rfl⟩
  | reset | resetAbort => exact .inl fun k hk => by simp at hk
  | _ => exact .inl fun k hk => by simpa using hk

/-- The one bit that setting a flag raises is the flag's own (R27). -/
theorem eq_bit_of_setFlag_raises {f : Flag} {k : Nat} (hs : s.irqFlags.getLsbD k = false)
    (ht : (setFlag f s).irqFlags.getLsbD k = true) : k = f.bit := by
  rw [setFlag_irqFlags, BitVec.getLsbD_or, hs, Bool.false_or, ← BitVec.twoPow_eq, BitVec.getLsbD_twoPow] at ht
  simp only [Bool.and_eq_true, decide_eq_true_eq] at ht
  exact ht.2.symm

/-- Settles O54: the flag that rises is the instruction's own, and R222's column names the instruction. -/
theorem aStepRaisesAtMostItsOwnFlag : Obligations.AStepRaisesAtMostItsOwnFlag := by
  intro i s t k h hk hs ht
  rcases (exec_effect h).raised_cases with hnone | ⟨f, hf, hflags⟩
  · exact absurd (hnone k ht) (by simp [hs])
  rw [hflags] at ht
  have hbit : k = f.bit := eq_bit_of_setFlag_raises hs ht
  cases hf with
  | tbTick => exact .inl ⟨hbit, rfl⟩
  | secTick => exact .inr (.inl ⟨hbit, rfl⟩)
  | rxByte b => exact .inr (.inr (.inl ⟨hbit, b, rfl⟩))
  | txFault => exact .inr (.inr (.inr (.inl ⟨hbit, rfl⟩)))
  | @wrCmd v hv => exact .inr (.inr (.inr (.inr ⟨hbit, .inl ⟨v, rfl, hv⟩⟩)))
  | reservedOp o => exact .inr (.inr (.inr (.inr ⟨hbit, .inr (.inl ⟨o, rfl⟩)⟩)))
  | reservedRsv r x => exact .inr (.inr (.inr (.inr ⟨hbit, .inr (.inr ⟨r, x, rfl⟩)⟩)))

/-! ## The turns of a clock cycle, R241 -/

/-- With no turn left, a step takes the turns of the next listed cycle. -/
theorem step_of_cycles {c : Cycle} {cs : List Cycle} {xs : List Turn} (hl : s.cfg.legal) (ht : s.turns = [])
    (hc : s.cycles = c :: cs) (hxs : c.turns = xs) : step s = .next { s with turns := xs, cycles := cs } := by
  simp only [step_edge hl ht, clockEdge, hc, hxs]

/-- RESET is the only step of its cycle. -/
theorem turns_of_rst {c : Cycle} (h : c.rst = true) : c.turns = [.event .rst] :=
  if_pos h

/-- Without RESET a cycle begins with the host and ends with LF or TX, then FE; between them stand the active ports. -/
theorem turns_of_not_rst {c : Cycle} (h : c.rst = false) :
    c.turns = .host c.host :: ((c.rx.map fun b => Turn.event (.rx b)).toList ++ ((if c.tb then [.event .tb] else []) ++
      ((if c.sec then [.event .sec] else []) ++ [.led c.ledFault c.tx, .fill c.fe]))) := by
  simp [Cycle.turns, h]

/-- Settles O12: the step takes the next cycle's turns, RESET's alone or R241's list, in which each port has its place
and is there when it is active. -/
theorem aClockCycleTakesItsTurnsInOrder : Obligations.AClockCycleTakesItsTurnsInOrder := by
  intro s c cs hlegal hturns hcycles
  refine ⟨fun hrst => step_of_cycles hlegal hturns hcycles (turns_of_rst hrst),
    fun hrst => step_of_cycles hlegal hturns hcycles ((turns_of_not_rst hrst).trans ?_)⟩
  refine congrArg _ (congrArg₂ _ ?_ (congrArg₂ _ ?_ (congrArg₂ _ ?_ rfl)))
  · cases c.rx <;> rfl
  · cases c.tb <;> rfl
  · cases c.sec <;> rfl

end Sys2Proof.Machine

/-! PROOFS. Reset (70_reset_and_hazards.md R250): RESET is the only step of its clock cycle, gives every element its reset
value, leaves what surrounds the block, and meets the invariant. -/
namespace Sys2Proof.Machine

/-- The wire after a RESET: its observer sees a transmission in progress end (log 7). -/
def wireAfterReset (s : State) : List WireEvent :=
  if s.txBusy = true then s.wire ++ [.abort] else s.wire

/-- RESET never stops: whatever stood before, it resets the block (R250) and ends a transmission on the wire. -/
theorem exec_reset (s : State) : exec .reset s = .next (resetBlock { s with wire := wireAfterReset s }) := by
  by_cases hb : s.txBusy = true
  · calc exec .reset s = .next (resetBlock (txAbort s)) := if_pos hb
      _ = _ := by rw [wireAfterReset, if_pos hb]; rfl
  · calc exec .reset s = .next (resetBlock s) := if_neg hb
      _ = _ := by rw [wireAfterReset, if_neg hb]

/-- Settles O49: the clock edge leaves RESET's turn alone in its cycle, that turn runs RESET, and `resetBlock` gives
every element its value. -/
theorem resetGivesEveryElementItsValue : Obligations.ResetGivesEveryElementItsValue := by
  refine ⟨fun s c cs hlegal hturns hcycles hrst => ⟨?_, ?_⟩, fun s => ⟨_, exec_reset s, ?_⟩⟩
  · exact step_of_cycles hlegal hturns hcycles (turns_of_rst hrst)
  · exact aStepRunsTheEventOfItsTurn _ .rst [] .reset hlegal rfl rfl
  · simp [blackPixel]

/-- Settles O50: `resetBlock` keeps what surrounds the block, so the abort on the wire is all that is new there. -/
theorem resetLeavesTheSurroundings : Obligations.ResetLeavesTheSurroundings := by
  intro s t h
  rw [exec_reset] at h
  cases h
  simp [wireAfterReset]

/-- Settles O51: the reset state meets the invariant, and the configuration of log 2 is a legal one. -/
theorem resetMeetsTheInvariants : Obligations.ResetMeetsTheInvariants := by
  have hlegal : Config.atReset.legal := by decide
  exact ⟨fun _ => resetOf_inv, resetOf_inv hlegal⟩

end Sys2Proof.Machine
